-- ==== Sys2Proof/Word.lean ====
section
/-! DEFINITION. The word types of SRGB-CORE (00_scope.md R10: a byte is 8 bits, bit 0 is the least significant). -/

namespace Sys2Proof

/-- One byte of a transport read (R10, R50). -/
abbrev Byte := BitVec 8

/-- The 4-bit value of a hexadecimal digit character (R73). -/
abbrev Digit := BitVec 4

/-- The 24 bits of a frame, `r:g:b` with red in bits 23 to 16 (R23, R75). -/
abbrev Frame := BitVec 24

/-- One level of the line `dout` during one tick (R12): `true` is 1, high. -/
abbrev Level := Bool

end Sys2Proof
end

