-- ==== Sys2Proof/Config.lean ====
section
/-! DEFINITION. What is fixed for the block before it runs: the fixed constants and the parameters of 00_scope.md R6 with
their constraints R7, and the free values, the input trace that the environment is free to choose (R8, R235). -/

namespace Sys2Proof

/-! The fixed rows of R6's table. -/

/-- `CMD_LEN`: bytes in a command (R6). -/
def cmdLength : Nat := 6

/-- `NCHAN`: colour channels (R6). -/
def channelCount : Nat := 3

/-- `CHAN_BITS`: bits per channel (R6). -/
def channelBitCount : Nat := 8

/-- `NPIX`: Colors per frame (R6, 90_conflicts.md C2). -/
def pixelCount : Nat := 1

/-- `FRAME_BITS = NPIX*NCHAN*CHAN_BITS`: symbols per frame, 24 (R6). -/
def frameBitCount : Nat := pixelCount * channelCount * channelBitCount

/-- The parameters of R6 that a model takes as arguments. Every time is a whole number of ticks. -/
structure Params where
  /-- `LMAX`: capacity in bytes of the command buffer port. -/
  lmax   : Nat
  /-- `F_CLK` in hertz. -/
  fClk   : Nat
  /-- `T0H`: high ticks of a "0" symbol. -/
  t0h    : Nat
  /-- `T0L`: low ticks of a "0" symbol. -/
  t0l    : Nat
  /-- `T1H`: high ticks of a "1" symbol. -/
  t1h    : Nat
  /-- `T1L`: low ticks of a "1" symbol. -/
  t1l    : Nat
  /-- `TRESET`: ticks of the reset interval. -/
  tReset : Nat
  /-- `TICK_W`: width of the `tick` register. -/
  tickW  : Nat
  /-- `DIAG_MSG`: the diagnostic text that the transport side writes. The block does not use it (R6, R175, D13, U4). -/
  diagMsg : List Byte
  deriving DecidableEq, Repr

/-- The defaults of R6's table. `DIAG_MSG` is OPEN there and has none: the empty text is the model's (DESIGN CHOICE, log 3). -/
def Params.default : Params :=
  { lmax := 64, fClk := 20000000, t0h := 8, t0l := 17, t1h := 17, t1l := 8, tReset := 1000, tickW := 16,
    diagMsg := [] }

/-- `TBIT`: ticks per symbol (R6, derived there). -/
def Params.tBit (p : Params) : Nat := p.t0h + p.t0l

/-- Ticks of one whole frame, `24*TBIT + TRESET` (R77). -/
def Params.frameTicks (p : Params) : Nat := frameBitCount * p.tBit + p.tReset

/-- `LEN_W = ceil(log2(LMAX+1))`: width of the port `cmd_len` (R6). -/
def Params.lenW (p : Params) : Nat := Nat.log2 p.lmax + 1

/-- The constraints R7 puts on a parameter set; `TRESET / F_CLK >= 50 us` is written without the division. DESIGN CHOICE
(log 3): at `F_CLK = 0`, where the quotient and R12's tick of `1/F_CLK` seconds have no value and R7 says nothing, this form
accepts the set. DESIGN CHOICE
(log 3) too: R7 says the 50 us "for the reference protocol" and leaves open whether they bind a set for another protocol; every
set that breaks them is refused here. -/
def Params.valid (p : Params) : Bool :=
  decide (1 ≤ p.t0h ∧ p.t0h < p.t0l ∧ 1 ≤ p.t1l ∧ p.t1l < p.t1h ∧ p.t0h < p.t1h ∧
    p.t0h + p.t0l = p.t1h + p.t1l ∧
    1 ≤ p.tReset ∧ 50 * p.fClk ≤ 1000000 * p.tReset ∧
    p.t0h < 2 ^ p.tickW ∧ p.t0l < 2 ^ p.tickW ∧ p.t1h < 2 ^ p.tickW ∧ p.t1l < 2 ^ p.tickW ∧
    p.tReset < 2 ^ p.tickW ∧
    7 ≤ p.lmax)

/-- A parameter set within R7. -/
abbrev Params.Valid (p : Params) : Prop := p.valid = true

/-! The free values (log 1): what the environment drives on each input port at edge `e_n` (R31) where no input is listed
for that edge. Nothing is assumed of them: R8 asks for the whole input trace as a free argument. -/

/-- The level of `rst` at edge `n`: free (R235, reset source). -/
opaque Config.freeRst : Nat → Bool

/-- The level of `cmd_valid` at edge `n`: free (R235, transport). -/
opaque Config.freeCmdValid : Nat → Bool

/-- The number on `cmd_len` at edge `n`: free; the port takes it modulo its width. -/
opaque Config.freeCmdLen : Nat → Nat

/-- Byte `i` of `cmd_data` at edge `n`: free. -/
opaque Config.freeCmdByte : Nat → Nat → Byte

/-- The level of `underrun` at edge `n`: free (R143, R235, underrun source). -/
opaque Config.freeUnderrun : Nat → Bool

end Sys2Proof
end

