-- ==== Sys2Proof/Syntax.lean ====
section
/-! DEFINITION. The syntax: the values of level L1 (R37) and the ONE inductive of the opcode table's 29 rows. -/

namespace Sys2Proof

/-- A hexadecimal digit character by its class (R72): the classes `DIGIT` (`0` to `9`), `UPPER` (`A` to `F`) and `LOWER`
(`a` to `f`), each with its place in the class. -/
inductive HexChar where
  | digit (d : Fin 10)
  | upper (d : Fin 6)
  | lower (d : Fin 6)
  deriving DecidableEq, Repr

/-- `Color = (r, g, b)`, three unsigned 8-bit channels (R37). -/
structure Color where
  r : Byte
  g : Byte
  b : Byte
  deriving DecidableEq, Repr

/-- The two decode errors (R100, R190). -/
inductive DecodeError where
  | wrongLength
  | invalidDigit
  deriving DecidableEq, Repr

/-- The rows of spec/opcode_table.json, one constructor each. -/
inductive Instr where
  /-- `SETRGB`: the command, six hexadecimal digit characters `RH RL GH GL BH BL` in buffer order (R71, R107). -/
  | setrgb (rh rl gh gl bh bl : HexChar)
  /-- `HEXCHAR.'0'` (R103). -/
  | hexchar0
  /-- `HEXCHAR.'1'` (R103). -/
  | hexchar1
  /-- `HEXCHAR.'2'` (R103). -/
  | hexchar2
  /-- `HEXCHAR.'3'` (R103). -/
  | hexchar3
  /-- `HEXCHAR.'4'` (R103). -/
  | hexchar4
  /-- `HEXCHAR.'5'` (R103). -/
  | hexchar5
  /-- `HEXCHAR.'6'` (R103). -/
  | hexchar6
  /-- `HEXCHAR.'7'` (R103). -/
  | hexchar7
  /-- `HEXCHAR.'8'` (R103). -/
  | hexchar8
  /-- `HEXCHAR.'9'` (R103). -/
  | hexchar9
  /-- `HEXCHAR.'A'` (R104). -/
  | hexcharUpperA
  /-- `HEXCHAR.'B'` (R104). -/
  | hexcharUpperB
  /-- `HEXCHAR.'C'` (R104). -/
  | hexcharUpperC
  /-- `HEXCHAR.'D'` (R104). -/
  | hexcharUpperD
  /-- `HEXCHAR.'E'` (R104). -/
  | hexcharUpperE
  /-- `HEXCHAR.'F'` (R104). -/
  | hexcharUpperF
  /-- `HEXCHAR.'a'` (R105). -/
  | hexcharLowerA
  /-- `HEXCHAR.'b'` (R105). -/
  | hexcharLowerB
  /-- `HEXCHAR.'c'` (R105). -/
  | hexcharLowerC
  /-- `HEXCHAR.'d'` (R105). -/
  | hexcharLowerD
  /-- `HEXCHAR.'e'` (R105). -/
  | hexcharLowerE
  /-- `HEXCHAR.'f'` (R105). -/
  | hexcharLowerF
  /-- `ILLEGAL.WRONGLENGTH`: a read of `len` bytes, `len ≠ 6`; no byte of it is looked at (R79, R101, R108). -/
  | illegalWronglength (len : Nat)
  /-- `ILLEGAL.INVALIDDIGIT`: a read of six bytes of which at least one is no hexadecimal digit character (R80, R109). -/
  | illegalInvaliddigit (b0 b1 b2 b3 b4 b5 : Byte)
  /-- `SYM0`, the "0" symbol on the line (R76, R133). -/
  | sym0
  /-- `SYM1`, the "1" symbol on the line (R76, R134). -/
  | sym1
  /-- `RESET`, the reset interval on the line (R77, R135). -/
  | reset
  /-- `RENDER`, one frame of one Color on the line (R77, R130, R136). -/
  | render (c : Color)
  deriving DecidableEq, Repr

end Sys2Proof
end

