-- ==== Sys2Proof/WellFormed.lean ====
section
/-! DEFINITION. Which instruction terms stand for something the spec has: the two illegal classes say what makes a read
illegal (R79, R80). Every other constructor's operands are legal by their types. -/

namespace Sys2Proof

/-- The hexadecimal-digit predicate (R72), by the three ranges of byte values. -/
def isHexDigit (b : Byte) : Bool :=
  (0x30 ≤ b.toNat && b.toNat ≤ 0x39) || (0x41 ≤ b.toNat && b.toNat ≤ 0x46) || (0x61 ≤ b.toNat && b.toNat ≤ 0x66)

/-- The well-formedness check. -/
def Instr.wf : Instr → Bool
  | .setrgb _ _ _ _ _ _ => true
  | .hexchar0 | .hexchar1 | .hexchar2 | .hexchar3 | .hexchar4 => true
  | .hexchar5 | .hexchar6 | .hexchar7 | .hexchar8 | .hexchar9 => true
  | .hexcharUpperA | .hexcharUpperB | .hexcharUpperC => true
  | .hexcharUpperD | .hexcharUpperE | .hexcharUpperF => true
  | .hexcharLowerA | .hexcharLowerB | .hexcharLowerC => true
  | .hexcharLowerD | .hexcharLowerE | .hexcharLowerF => true
  | .illegalWronglength len => len != cmdLength
  | .illegalInvaliddigit b0 b1 b2 b3 b4 b5 =>
    !(isHexDigit b0 && isHexDigit b1 && isHexDigit b2 && isHexDigit b3 && isHexDigit b4 && isHexDigit b5)
  | .sym0 | .sym1 | .reset => true
  | .render _ => true

end Sys2Proof
end

