-- ==== Sys2Proof/Decode.lean ====
section
/-! DEFINITION. Encodings both ways. Level L1's functions of the source (R9): `hexval`, `pair`, `decode`, `frame_bits`,
`symbol`, `frame_wave` and the reference receiver; the decoder of the three formats (R70), total and rejecting by name;
the encoder, from the same tables; and the opcode table's numbering of an instruction's bits. -/

namespace Sys2Proof

/-! ## HEXCHAR (R72, R73, R103 to R105) -/

/-- The character a byte encodes, if it is one of the 22 (R72; the ASCII codes are PRESUMED by the spec, its G1, log 9). -/
def hexChar (b : Byte) : Option HexChar :=
  if h : 0x30 ≤ b.toNat ∧ b.toNat ≤ 0x39 then some (.digit ⟨b.toNat - 0x30, by omega⟩)
  else if h : 0x41 ≤ b.toNat ∧ b.toNat ≤ 0x46 then some (.upper ⟨b.toNat - 0x41, by omega⟩)
  else if h : 0x61 ≤ b.toNat ∧ b.toNat ≤ 0x66 then some (.lower ⟨b.toNat - 0x61, by omega⟩)
  else none

/-- The byte that encodes a character (R72). -/
def HexChar.code : HexChar → Byte
  | .digit d => BitVec.ofNat 8 (0x30 + d.val)
  | .upper d => BitVec.ofNat 8 (0x41 + d.val)
  | .lower d => BitVec.ofNat 8 (0x61 + d.val)

/-- The 4-bit value of a character: R103 for `DIGIT`, R104 for `UPPER`, R105 for `LOWER`. -/
def HexChar.value : HexChar → Digit
  | .digit d => BitVec.ofNat 4 d.val
  | .upper d => BitVec.ofNat 4 (10 + d.val)
  | .lower d => BitVec.ofNat 4 (10 + d.val)

/-- `hexval(b)`: `some v`, or `none` for every byte the three classes do not cover (40_decode.md, section 3). -/
def hexval (b : Byte) : Option Digit := (hexChar b).map HexChar.value

/-- The HEXCHAR row of the opcode table a character stands on. -/
def HexChar.instr : HexChar → Instr
  | .digit 0 => .hexchar0
  | .digit 1 => .hexchar1
  | .digit 2 => .hexchar2
  | .digit 3 => .hexchar3
  | .digit 4 => .hexchar4
  | .digit 5 => .hexchar5
  | .digit 6 => .hexchar6
  | .digit 7 => .hexchar7
  | .digit 8 => .hexchar8
  | .digit 9 => .hexchar9
  | .upper 0 => .hexcharUpperA
  | .upper 1 => .hexcharUpperB
  | .upper 2 => .hexcharUpperC
  | .upper 3 => .hexcharUpperD
  | .upper 4 => .hexcharUpperE
  | .upper 5 => .hexcharUpperF
  | .lower 0 => .hexcharLowerA
  | .lower 1 => .hexcharLowerB
  | .lower 2 => .hexcharLowerC
  | .lower 3 => .hexcharLowerD
  | .lower 4 => .hexcharLowerE
  | .lower 5 => .hexcharLowerF

/-! ## CMD6 (R71, R74, R100 to R109) -/

/-- A channel's value from its two digits, the first the high half (R74, R106). -/
def digitPair (high low : Digit) : Byte := high ++ low

/-- `pair(h, l)` on characters (R106). -/
def HexChar.pair (h l : HexChar) : Byte := digitPair h.value l.value

/-- The Color six characters spell: red from [0,2), green from [2,4), blue from [4,6) (R52, R107). -/
def commandColor (rh rl gh gl bh bl : HexChar) : Color :=
  { r := rh.pair rl, g := gh.pair gl, b := bh.pair bl }

/-- `decode(buf)` as R100 lists it: the length first, then all six digits, then the three pairs. Its results carry no
index, no byte and no length (R108, R109), and no channel value beside an error (R110). -/
def decodeResult (buf : List Byte) : Except DecodeError Color :=
  match buf with
  | [b0, b1, b2, b3, b4, b5] =>
    match hexval b0, hexval b1, hexval b2, hexval b3, hexval b4, hexval b5 with
    | some v0, some v1, some v2, some v3, some v4, some v5 =>
      .ok { r := digitPair v0 v1, g := digitPair v2 v3, b := digitPair v4 v5 }
    | _, _, _, _, _, _ => .error .invalidDigit
  | _ => .error .wrongLength

/-- The instruction a whole transport read is (R54, R78 to R81): `SETRGB`, or one of the two illegal classes. -/
def decodeRead (buf : List Byte) : Instr :=
  match buf with
  | [b0, b1, b2, b3, b4, b5] =>
    match hexChar b0, hexChar b1, hexChar b2, hexChar b3, hexChar b4, hexChar b5 with
    | some c0, some c1, some c2, some c3, some c4, some c5 => .setrgb c0 c1 c2 c3 c4 c5
    | _, _, _, _, _, _ => .illegalInvaliddigit b0 b1 b2 b3 b4 b5
  | _ => .illegalWronglength buf.length

/-! ## LINE (R53, R75 to R77, R132 to R136) -/

/-- `TH(b)` (R11). -/
def highTicks (p : Params) (b : Bool) : Nat := if b then p.t1h else p.t0h

/-- `TL(b)` (R11). -/
def lowTicks (p : Params) (b : Bool) : Nat := if b then p.t1l else p.t0l

/-- `F = r:g:b`, red in bits 23 to 16 (R23, R75). -/
def Color.word (c : Color) : Frame := c.r ++ c.g ++ c.b

/-- The Color whose frame word is `w`. -/
def Color.ofWord (w : Frame) : Color :=
  { r := w.extractLsb' 16 8, g := w.extractLsb' 8 8, b := w.extractLsb' 0 8 }

/-- One channel's bits, the most significant first (R132). -/
def channelBits (v : Byte) : List Bool := (List.range channelBitCount).map fun k => v.getLsbD (7 - k)

/-- `frame_bits(c)`: red, then green, then blue (R132; the order is fixed, R53). -/
def frameBits (c : Color) : List Bool := channelBits c.r ++ channelBits c.g ++ channelBits c.b

/-- `symbol(b)`: `TH(b)` ticks high, then `TL(b)` ticks low (R76, R133, R134). -/
def symbol (p : Params) (b : Bool) : List Level :=
  List.replicate (highTicks p b) true ++ List.replicate (lowTicks p b) false

/-- The reset interval: `TRESET` low ticks (R77, R135). -/
def resetWave (p : Params) : List Level := List.replicate p.tReset false

/-- `frame_wave(c)`: the 24 symbols and the reset interval (R136). -/
def frameWave (p : Params) (c : Color) : List Level := (frameBits c).flatMap (symbol p) ++ resetWave p

/-- The widths of the maximal runs of 1s of a level list, in order; `n` is the width of the run that reaches its start. -/
def pulseWidths : Nat → List Level → List Nat
  | 0, [] => []
  | n + 1, [] => [n + 1]
  | n, true :: ls => pulseWidths (n + 1) ls
  | 0, false :: ls => pulseWidths 0 ls
  | n + 1, false :: ls => (n + 1) :: pulseWidths 0 ls

/-- The bit a pulse of width `n` stands for: 1 for `T1H`, 0 for `T0H`, none for another width (95_test_vectors.md 2.5). -/
def pulseBit (p : Params) (n : Nat) : Option Bool :=
  if n = p.t1h then some true else if n = p.t0h then some false else none

/-- A 24-bit word from a list of bits, the first the most significant. -/
def wordOfBits (bits : List Bool) : Frame :=
  bits.foldl (fun w b => (w <<< 1) ||| (if b then 1#24 else 0#24)) 0#24

/-- The reference receiver of 95_test_vectors.md 2.5 on ONE piece of a `dout` trace, its split left out (log 15): every pulse is
told by its width, and exactly 24 bits give a Color. -/
def receive (p : Params) (ls : List Level) : Option Color :=
  match (pulseWidths 0 ls).mapM (pulseBit p) with
  | some bits => if bits.length = frameBitCount then some (.ofWord (wordOfBits bits)) else none
  | none => none

/-- The receiver's split: a level list cut at each maximal low run of at least `n` ticks. `piece` is the piece so far, `lows` the
width of the low run that reaches this point. -/
def splitAtResets (n : Nat) : List Level → List Level → Nat → List (List Level)
  | [], piece, lows => if n ≤ lows then [piece] else [piece ++ List.replicate lows false]
  | false :: ls, piece, lows => splitAtResets n ls piece (lows + 1)
  | true :: ls, piece, lows =>
    if n ≤ lows then piece :: splitAtResets n ls [true] 0
    else splitAtResets n ls (piece ++ List.replicate lows false ++ [true]) 0

/-- The whole reference receiver of 95_test_vectors.md 2.5: the Colors of the pieces of a `dout` trace, in order. -/
def receiveTrace (p : Params) (ls : List Level) : List Color := (splitAtResets p.tReset ls [] 0).filterMap (receive p)

/-- The element a level list is, exactly tick for tick (R76, R77, R136). -/
def decodeLine (p : Params) (ls : List Level) : Option Instr :=
  if ls = symbol p false then some .sym0
  else if ls = symbol p true then some .sym1
  else if ls = resetWave p then some .reset
  else match receive p ls with
    | some c => if ls = frameWave p c then some (.render c) else none
    | none => none

/-! ## The decoder and the encoder -/

/-- What can be decoded, by the format it is presented in (R70): one character (`HEXCHAR`), one whole transport read
(`CMD6`, or the table's `READ`), or a piece of the line's level trace (`LINE`). -/
inductive Code where
  | char (b : Byte)
  | read (buf : List Byte)
  | line (levels : List Level)
  deriving DecidableEq, Repr

/-- Why a code is rejected, by name. -/
inductive DecodeReject where
  /-- The byte is none of the 22 hexadecimal digit characters (R72: 234 of the 256). -/
  | notAHexDigit (b : Byte)
  /-- The levels are no symbol, no reset interval and no frame (R76, R77). -/
  | notALineElement
  deriving DecidableEq, Repr

/-- The decoder, total on every code. A read is never rejected: its two illegal classes are rows of the table (R81). -/
def decode (p : Params) : Code → Except DecodeReject Instr
  | .char b =>
    match hexChar b with
    | some c => .ok c.instr
    | none => .error (.notAHexDigit b)
  | .read buf => .ok (decodeRead buf)
  | .line ls =>
    match decodeLine p ls with
    | some i => .ok i
    | none => .error .notALineElement

/-- The encoder, from the same tables. A wrong-length read is known by its length alone (R108), so its bytes are zeros. -/
def encode (p : Params) : Instr → Code
  | .setrgb rh rl gh gl bh bl => .read [rh.code, rl.code, gh.code, gl.code, bh.code, bl.code]
  | .hexchar0 => .char (HexChar.digit 0).code
  | .hexchar1 => .char (HexChar.digit 1).code
  | .hexchar2 => .char (HexChar.digit 2).code
  | .hexchar3 => .char (HexChar.digit 3).code
  | .hexchar4 => .char (HexChar.digit 4).code
  | .hexchar5 => .char (HexChar.digit 5).code
  | .hexchar6 => .char (HexChar.digit 6).code
  | .hexchar7 => .char (HexChar.digit 7).code
  | .hexchar8 => .char (HexChar.digit 8).code
  | .hexchar9 => .char (HexChar.digit 9).code
  | .hexcharUpperA => .char (HexChar.upper 0).code
  | .hexcharUpperB => .char (HexChar.upper 1).code
  | .hexcharUpperC => .char (HexChar.upper 2).code
  | .hexcharUpperD => .char (HexChar.upper 3).code
  | .hexcharUpperE => .char (HexChar.upper 4).code
  | .hexcharUpperF => .char (HexChar.upper 5).code
  | .hexcharLowerA => .char (HexChar.lower 0).code
  | .hexcharLowerB => .char (HexChar.lower 1).code
  | .hexcharLowerC => .char (HexChar.lower 2).code
  | .hexcharLowerD => .char (HexChar.lower 3).code
  | .hexcharLowerE => .char (HexChar.lower 4).code
  | .hexcharLowerF => .char (HexChar.lower 5).code
  | .illegalWronglength len => .read (List.replicate len 0x00#8)
  | .illegalInvaliddigit b0 b1 b2 b3 b4 b5 => .read [b0, b1, b2, b3, b4, b5]
  | .sym0 => .line (symbol p false)
  | .sym1 => .line (symbol p true)
  | .reset => .line (resetWave p)
  | .render c => .line (frameWave p c)

/-! ## The opcode table's numbering (log 8) -/

/-- The first `n` bytes of a word whose byte 0 is its bits 7 to 0: `cmd_data`'s order (R51, R71). -/
def wordBytes (n w : Nat) : List Byte := (List.range n).map fun k => BitVec.ofNat 8 (w >>> (8 * k))

/-- The levels of a `LINE` row's pattern, the first tick leftmost, read as one number with bit 0 the last tick. -/
def wordLevels (n w : Nat) : List Level := (List.range n).map fun k => w.testBit (n - 1 - k)

/-- The code a table word stands for, by the number of bits the table gives its row: 8 is a `HEXCHAR` row, 25 (32 in whole
bytes) a symbol, 1000 the reset interval, 1600 a whole frame, any other number a read. -/
def tableCode (nbits w : Nat) : Code :=
  if nbits = 8 then .char (BitVec.ofNat 8 w)
  else if nbits = 25 ∨ (nbits = 32 ∧ w < 2 ^ 25) then .line (wordLevels 25 w)
  else if nbits = 1000 ∨ nbits = 1600 then .line (wordLevels nbits w)
  else .read (wordBytes (nbits / 8) w)

/-- The code of a table word, taken as a read where its row's own format rejects it. -/
def tableCodeOrRead (nbits w : Nat) : Code :=
  match decode .default (tableCode nbits w) with
  | .ok _ => tableCode nbits w
  | .error _ => .read (wordBytes (nbits / 8) w)

/-- The instruction the decoder reads from a table word, at the default parameters (the table's patterns are theirs). -/
def decodeTableWord (nbits w : Nat) : Option Instr :=
  (decode .default (tableCodeOrRead nbits w)).toOption

end Sys2Proof
end

