-- ==== Sys2Proof/Machine/State.lean ====
section
/-! DEFINITION. The state of the machine as plain data: the seven registers of R20 and, marked as the model's own, the
parameter set, the input trace and the number of the present interval; why a step can stop; reset. -/

namespace Sys2Proof.Machine

/-- `seq`, the sequencer's state (R21, R86). -/
inductive Seq where
  | wait
  | diag
  | render
  deriving DecidableEq, Repr

/-- `err`, the last decode error (R22, R85). -/
inductive Err where
  | none
  | wrongLength
  | invalidDigit
  deriving DecidableEq, Repr

/-- `phase`, the transmitter's phase (R25, R86). -/
inductive Phase where
  | idle
  | hi
  | lo
  | gap
  deriving DecidableEq, Repr

/-- The errors of R190 that R11's `raise` takes. -/
inductive BlockError where
  | decode (e : DecodeError)
  | transmissionFailure
  deriving DecidableEq, Repr

/-- The command buffer, the one addressable store (R50): pairs of index and byte, indices rising, none listed whose byte
is `unlistedByte`. Its operations are in Machine/Ops.lean. -/
abbrev Memory := List Host.Cell

/-- The input ports as sampled at one rising edge of `clk` (R31). -/
structure Input where
  rst      : Bool
  cmdValid : Bool
  cmdLen   : Nat
  cmdData  : Memory
  underrun : Bool
  deriving DecidableEq, Repr

/-- The state. -/
structure State where
  /-- Register `seq` (R20, R21). -/
  seq    : Seq
  /-- Register `err` (R20, R22). -/
  err    : Err
  /-- Register `sr`, the frame bits not yet fully emitted, the next in bit 23 (R20, R23). -/
  sr     : Frame
  /-- Register `bitcnt`, the symbols still to finish (R20, R24). -/
  bitcnt : BitVec 5
  /-- Register `phase` (R20, R25). -/
  phase  : Phase
  /-- Register `tick`, the ticks left in the phase; a number bounded by `TICK_W` (R20, R26; D29 allows it). -/
  tick   : Nat
  /-- Register `fail`, the transmission-failure flag (R20, R27). -/
  fail   : Bool
  /-- The model's own: the parameter set, an argument of the block that no step changes (R6, log 3). -/
  params : Params
  /-- The model's own: what the environment drives at the coming edges, the next one first (R8, log 1). -/
  inputs : List Input
  /-- The model's own: `n` of the present interval `S_n` (R12); the free inputs past the list are numbered by it (log 1). -/
  edge   : Nat
  deriving DecidableEq, Repr

/-- What stops the machine with a fault. -/
inductive Fault where
  /-- `MemRead(addr, n)` with `addr + n` above `cmd_len` or above `LMAX` (R11, R51: defined only inside the read). Raised by
  `memRead`. Safe: no value is made up. Under R7's `LMAX >= 7` no step reaches it, since the length is tested first. -/
  | outsideBuffer (addr n : Nat)
  deriving DecidableEq, Repr

/-- What the machine refuses. -/
inductive Refusal where
  /-- An instruction without a meaning. Raised by an arm of `exec` only; no arm raises it. Safe. -/
  | notModelled (mnemonic : String)
  /-- The parameter set breaks R7 ("A model should refuse a parameter set that breaks any of these"). Raised by `step`.
  Safe: no behaviour is claimed for such a set. -/
  | badParameters
  deriving DecidableEq, Repr

/-- The state right after the edge that reset the block (R34, R221), with the default parameters and nothing listed of
what the environment will drive. -/
def State.reset : State :=
  { seq := .wait, err := .none, sr := 0, bitcnt := 0, phase := .gap, tick := Params.default.tReset, fail := false,
    params := .default, inputs := [], edge := 0 }

end Sys2Proof.Machine
end

