-- ==== Sys2Proof/Machine/Flags.lean ====
section
/-! DEFINITION. The two flags, `err` and `fail` (R22, R27): every value an operation gives them, and their codes. -/

namespace Sys2Proof.Machine

/-- The value `err` takes at an accept edge whose decode fails (R173, R191, R192). -/
def errOf : DecodeError → Err
  | .wrongLength => .wrongLength
  | .invalidDigit => .invalidDigit

/-- The 2-bit code of `err` on `diag_code` (R85). -/
def Err.code : Err → BitVec 2
  | .none => 0
  | .wrongLength => 1
  | .invalidDigit => 2

/-- `err <- code(e)` (R173); nothing but reset clears it (R22). -/
def State.flagErr (s : State) (e : DecodeError) : State := { s with err := errOf e }

/-- `fail <- 1` (R143). -/
def State.flagFail (s : State) : State := { s with fail := true }

/-- `fail <- 0`, at the load of a render (R27, R138). -/
def State.clearFail (s : State) : State := { s with fail := false }

end Sys2Proof.Machine
end

