-- ==== Sys2Proof/Machine/Ops.lean ====
section
/-! DEFINITION. The named operations over the command buffer, the ports and the registers: reading and building a buffer,
sampling the input ports, the output ports, the register moves of the transmitter, raising an error and returning. -/

namespace Sys2Proof.Machine

/-! ## The command buffer (R50, R51) -/

/-- What an index that no pair lists reads as (log 6): `cmd_data` is a port, so every byte of it has some value. -/
def unlistedByte : Byte := 0x00#8

/-- `byte(i)` of the buffer (R51). -/
def Memory.read : Memory → Nat → Byte
  | [], _ => unlistedByte
  | (k, v) :: m, a => if k = a then v else Memory.read m a

/-- The buffer with byte `b` at index `a`. The block never does it (R50); the transport does. -/
def Memory.write : Memory → Nat → Byte → Memory
  | [], a, b => if b = unlistedByte then [] else [(a, b)]
  | (k, v) :: m, a, b =>
    if a < k then (if b = unlistedByte then (k, v) :: m else (a, b) :: (k, v) :: m)
    else if a = k then (if b = unlistedByte then m else (a, b) :: m)
    else (k, v) :: Memory.write m a b

/-- Every listed index is at least `lo` and they rise; no listed byte is the unlisted one. -/
def Memory.wfFrom (lo : Nat) : Memory → Bool
  | [] => true
  | (k, v) :: m => decide (lo ≤ k) && decide (v ≠ unlistedByte) && Memory.wfFrom (k + 1) m

/-- The canonical form: equal buffers are equal lists. -/
def Memory.wf (m : Memory) : Bool := Memory.wfFrom 0 m

/-- The buffer that holds `bs` from index `a` on. -/
def Memory.ofBytesAt (a : Nat) : List Byte → Memory
  | [] => []
  | b :: bs => Memory.write (Memory.ofBytesAt (a + 1) bs) a b

/-- The buffer of one read: its first byte has index 0 (R52). -/
def Memory.ofBytes (bs : List Byte) : Memory := Memory.ofBytesAt 0 bs

/-- `[byte(addr), ..., byte(addr+n-1)]` of a buffer, with no check. -/
def Memory.readBytes (m : Memory) (addr n : Nat) : List Byte := (List.range n).map fun k => m.read (addr + k)

/-- `MemRead(addr, n)` on a presented read (R11, R51), defined only inside its `cmd_len` bytes and the port's `LMAX`. -/
def memRead (p : Params) (i : Input) (addr n : Nat) : Except Fault (List Byte) :=
  if addr + n ≤ i.cmdLen ∧ addr + n ≤ p.lmax then .ok (i.cmdData.readBytes addr n) else .error (.outsideBuffer addr n)

/-! ## The input ports (R31) -/

/-- A quiet edge: nothing presented, nothing asserted. -/
def Input.quiet : Input := { rst := false, cmdValid := false, cmdLen := 0, cmdData := [], underrun := false }

/-- A transport read presented at an edge (R31): `cmd_valid` with its count and its bytes. -/
def Input.present (buf : List Byte) : Input :=
  { rst := false, cmdValid := true, cmdLen := buf.length, cmdData := Memory.ofBytes buf, underrun := false }

/-- One byte driven on all six bytes of DEC's input `cmd_data[47:0]`, with `cmd_len` 6, while no read is presented (R113). -/
def Input.drive (b : Byte) : Input :=
  { rst := false, cmdValid := false, cmdLen := cmdLength, cmdData := Memory.ofBytes (List.replicate cmdLength b),
    underrun := false }

/-- An input the ports can carry (R31): `cmd_len` within its width, every listed byte inside `LMAX`, canonical form. -/
def Input.wf (p : Params) (i : Input) : Bool :=
  decide (i.cmdLen < 2 ^ p.lenW) && i.cmdData.wf && i.cmdData.all fun c => decide (c.1 < p.lmax)

/-- What the environment drives at edge `n` where no input is listed: free on every port (R8, R235, log 1). -/
def freeInput (p : Params) (n : Nat) : Input :=
  { rst := Config.freeRst n
    cmdValid := Config.freeCmdValid n
    cmdLen := Config.freeCmdLen n % 2 ^ p.lenW
    cmdData := Memory.ofBytes ((List.range p.lmax).map (Config.freeCmdByte n))
    underrun := Config.freeUnderrun n }

/-- The input ports at the next rising edge. -/
def State.port (s : State) : Input :=
  match s.inputs with
  | i :: _ => i
  | [] => freeInput s.params (s.edge + 1)

/-- The edge is over: its input is spent and the next interval begins (R12). -/
def State.advance (s : State) : State := { s with inputs := s.inputs.tail, edge := s.edge + 1 }

/-! ## The output ports, functions of the present state only (R32) -/

/-- `dout`: high exactly in `HI` (R32, R144). -/
def State.dout (s : State) : Level := decide (s.phase = .hi)

/-- `cmd_ready` (R32, R181). -/
def State.cmdReady (s : State) : Bool := decide (s.seq = .wait) && decide (s.phase = .idle)

/-- `diag_valid` (R32, R175). -/
def State.diagValid (s : State) : Bool := decide (s.seq = .diag)

/-- `diag_code` (R32, R85). -/
def State.diagCode (s : State) : BitVec 2 := s.err.code

/-- `done` (R32, R145). -/
def State.done (s : State) : Bool := decide (s.seq = .render) && decide (s.phase = .gap) && decide (s.tick = 1)

/-- The port `fail` (R32, R145). -/
def State.failPort (s : State) : Bool := s.fail

/-- `busy` (R32). -/
def State.busy (s : State) : Bool := decide (s.phase ≠ .idle)

/-! ## The register moves of the transmitter -/

/-- `tick <- tick - 1` (R26). -/
def State.countDown (s : State) : State := { s with tick := s.tick - 1 }

/-- A symbol of bit `b` begins: `phase <- HI ; tick <- TH(b)` (R138, R140). -/
def State.beginHigh (s : State) (b : Bool) : State := { s with phase := .hi, tick := highTicks s.params b }

/-- Its low part begins: `phase <- LO ; tick <- TL(b)` (R139). -/
def State.beginLow (s : State) (b : Bool) : State := { s with phase := .lo, tick := lowTicks s.params b }

/-- A reset interval begins: `phase <- GAP ; tick <- TRESET` (R140, R143). -/
def State.beginGap (s : State) : State := { s with phase := .gap, tick := s.params.tReset }

/-- A reset interval is over: `phase <- IDLE ; tick <- 0` (R141). -/
def State.beginIdle (s : State) : State := { s with phase := .idle, tick := 0 }

/-- A symbol is finished: `sr` shifts left by one with 0 entering bit 0, `bitcnt` counts down (R140). -/
def State.shiftOut (s : State) : State := { s with sr := s.sr <<< 1, bitcnt := s.bitcnt - 1 }

/-- `sr <- w ; bitcnt <- n`. -/
def State.setFrame (s : State) (w : Frame) (n : BitVec 5) : State := { s with sr := w, bitcnt := n }

/-- `seq <- q` (R21). -/
def State.setSeq (s : State) (q : Seq) : State := { s with seq := q }

/-! ## Raising an error and returning (R11, R190 to R201) -/

/-- `raise E` (R11), the block's one entry to its error handling: nothing is saved, no vector is followed.
A decode error: `err <- code(E)`, `seq <- DIAG` (R199). `TransmissionFailure`: the abort of R143 and R200; `seq` stays. -/
def raise (e : BlockError) (s : State) : State :=
  match e with
  | .decode d => (s.flagErr d).setSeq .diag
  | .transmissionFailure => (s.flagFail.beginGap).setFrame 0 0

/-- The return to waiting (R201), unconditional after either branch (R175, R176); nothing is restored. -/
def returnToWait (s : State) : State := s.setSeq .wait

/-- The edge with `rst = 1` (R220, R221): every register at its reset value, whatever the state was; nothing
persists (R224). -/
def resetRegisters (s : State) : State :=
  { s with seq := .wait, err := .none, sr := 0, bitcnt := 0, phase := .gap, tick := s.params.tReset, fail := false }

end Sys2Proof.Machine
end

