-- ==== Sys2Proof/Machine/Operands.lean ====
section
/-! DEFINITION. The operand forms: the wires of DEC, functions of the ports alone (R113), the first bit of a Color (R138),
the present and the next bit of the frame register (R139, R140). -/

namespace Sys2Proof.Machine

/-- DEC's digit wires at byte `k` of `cmd_data`: `hexval(byte(k))` (R103 to R105, R113). -/
def Input.digit (i : Input) (k : Nat) : Option Digit := hexval (i.cmdData.read k)

/-- DEC's outputs (R113), a function of `cmd_len` and `cmd_data[47:0]` alone: the result kind and, for `Ok`, the 24-bit value
`r:g:b`. The length is tested first (R101), then all six digits (R102); digit 0 is bits 23 to 20 (R57). No value stands beside
an error (R110). -/
def decOutputs (i : Input) : Except DecodeError Frame :=
  if i.cmdLen = cmdLength then
    match i.digit 0, i.digit 1, i.digit 2, i.digit 3, i.digit 4, i.digit 5 with
    | some v0, some v1, some v2, some v3, some v4, some v5 =>
      .ok (digitPair v0 v1 ++ digitPair v2 v3 ++ digitPair v4 v5)
    | _, _, _, _, _, _ => .error .invalidDigit
  else .error .wrongLength

/-- The frame bit the present symbol sends, `sr[23]` (R23). -/
def State.presentBit (s : State) : Bool := s.sr.getLsbD 23

/-- The frame bit the next symbol will send, `sr[22]`, read before the shift (R140). -/
def State.nextBit (s : State) : Bool := s.sr.getLsbD 22

/-- The first frame bit of a Color, `c.r[7]` (R138). -/
def firstBit (c : Color) : Bool := c.r.getLsbD 7

end Sys2Proof.Machine
end

