-- ==== Sys2Proof/Machine/Transmit.lean ====
section
/-! DEFINITION. The LED Signal Driver (41_transmit.md): the load, one tick of a symbol, one tick of the reset interval, and
the meanings of the four LINE rows. A LINE element lasts many ticks; `phase` and `tick` hold how far it has come (R25, R26),
and one `exec` of it is what the element does at one clock edge (log 5). -/

namespace Sys2Proof.Machine

/-- `tx_load(c)` (R138). -/
def txLoad (c : Color) (s : State) : State :=
  ((s.setFrame c.word (BitVec.ofNat 5 frameBitCount)).beginHigh (firstBit c)).clearFail

/-- Whether the abort of R143 is due at this edge: `underrun` is looked at only in `RENDER` (R178, R182, R196); the caller
is in `HI` or `LO`. -/
def State.underrunSeen (s : State) : Bool := decide (s.seq = .render) && s.port.underrun

/-- The end of a symbol (R140): the shift, then the reset interval after the last symbol, else the next symbol. -/
def endSymbol (s : State) : State :=
  if s.bitcnt = 1 then s.shiftOut.beginGap else s.shiftOut.beginHigh s.nextBit

/-- One tick of a symbol of bit `b`: the abort first (R143, R198), then R139 in `HI` and R140 in `LO`. In `GAP` and `IDLE`
no symbol is in progress and nothing happens (R142). DESIGN CHOICE (log 5): `seq` is not looked at but for the abort, so `exec` of
a symbol in `DIAG` with `HI` or `LO`, outside R35, takes the tick and keeps `DIAG`; a step in `DIAG` runs no row. -/
def symbolTick (b : Bool) (s : State) : State :=
  match s.phase with
  | .hi =>
    if s.underrunSeen then raise .transmissionFailure s
    else if 1 < s.tick then s.countDown else s.beginLow b
  | .lo =>
    if s.underrunSeen then raise .transmissionFailure s
    else if 1 < s.tick then s.countDown else endSymbol s
  | .gap => s
  | .idle => s

/-- The `GAP` has run out (R141). In a render the edge that is `finished` (R150: `tick = 1`) is also the return to `WAIT`
(R176); after the power-on gap `seq` is `WAIT` already (R178). DESIGN CHOICE (log 5): in `DIAG`, outside R35, the
interval ends and `seq` stays; no step runs the row there. -/
def endGap (s : State) : State :=
  match s.seq with
  | .render => if s.tick = 1 then returnToWait s.beginIdle else s.beginIdle
  | .wait => s.beginIdle
  | .diag => s.beginIdle

/-- One tick of the reset interval (R141); `underrun` is not looked at. Outside `GAP` none is in progress. DESIGN CHOICE (log 5):
`exec` of the row in `DIAG` with `GAP`, outside R35, takes the tick and keeps `DIAG`; a step in `DIAG` runs no row. -/
def gapTick (s : State) : State :=
  match s.phase with
  | .gap => if 1 < s.tick then s.countDown else endGap s
  | .hi => s
  | .lo => s
  | .idle => s

/-- The render of `c` begins (R130, R138, R172). -/
def startRender (c : Color) (s : State) : State := (txLoad c s).setSeq .render

/-- One tick of a render in flight (R176): the symbol of the present bit, or the reset interval. -/
def renderTick (s : State) : State :=
  match s.phase with
  | .hi => symbolTick s.presentBit s
  | .lo => symbolTick s.presentBit s
  | .gap => gapTick s
  | .idle => s

/-- `SYM0` (R133): one tick of the "0" symbol, `T0H` high then `T0L` low. -/
def execSym0 (s : State) : Host.Outcome State Fault Refusal := .next (symbolTick false s)

/-- `SYM1` (R134): one tick of the "1" symbol, `T1H` high then `T1L` low. -/
def execSym1 (s : State) : Host.Outcome State Fault Refusal := .next (symbolTick true s)

/-- `RESET` (R135): one tick of the reset interval. -/
def execReset (s : State) : Host.Outcome State Fault Refusal := .next (gapTick s)

/-- `RENDER` (R130, R136): with the transmitter idle, the load; while a render is in flight, its next tick, so that a second
request waits until the active one is over (R131). From the load on, `24*TBIT + TRESET` ticks send the whole frame.
DESIGN CHOICE (log 5): the test is of `phase` alone, so in `DIAG`, where `phase` is `IDLE` and R170 has no arrow to `RENDER`,
`exec` of this row loads as in `WAIT`; no step runs it there. -/
def execRender (c : Color) (s : State) : Host.Outcome State Fault Refusal :=
  match s.phase with
  | .idle => .next (startRender c s)
  | .hi => .next (renderTick s)
  | .lo => .next (renderTick s)
  | .gap => .next (renderTick s)

end Sys2Proof.Machine
end

