-- ==== Sys2Proof/Machine/Command.lean ====
section
/-! DEFINITION. The meanings of the commands, what an accept edge does with the read it takes (42_sequencer.md R171 to
R173). Where `cmd_ready` is 0 nothing is transferred and nothing changes (R64). -/

namespace Sys2Proof.Machine

/-- A decode error at an accept edge (R173, R199). -/
def acceptError (e : DecodeError) (s : State) : State := if s.cmdReady then raise (.decode e) s else s

/-- `SETRGB` (R107, R172): the render of the Color that the six characters spell begins; `err` keeps its value. -/
def execSetrgb (rh rl gh gl bh bl : HexChar) (s : State) : Host.Outcome State Fault Refusal :=
  if s.cmdReady then .next (startRender (commandColor rh rl gh gl bh bl) s) else .next s

/-- `ILLEGAL.WRONGLENGTH` (R108, R191): `err <- WRONG_LENGTH`, `seq <- DIAG`. A read of length 0 is consumed with no decode,
no diagnostic and no change (R174). -/
def execIllegalWronglength (len : Nat) (s : State) : Host.Outcome State Fault Refusal :=
  if len = 0 then .next s else .next (acceptError .wrongLength s)

/-- `ILLEGAL.INVALIDDIGIT` (R109, R192): `err <- INVALID_DIGIT`, `seq <- DIAG`; neither index nor byte is kept. -/
def execIllegalInvaliddigit (_b0 _b1 _b2 _b3 _b4 _b5 : Byte) (s : State) : Host.Outcome State Fault Refusal :=
  .next (acceptError .invalidDigit s)

end Sys2Proof.Machine
end

