-- ==== Sys2Proof/Machine/Hexchar.lean ====
section
/-! DEFINITION. The meanings of the 22 HEXCHAR rows (R72, R73, R103 to R105). A character's whole effect is its 4-bit value
on the wires of DEC (`Input.digit`, `HexChar.value`), which is combinational logic with no register (R113) and writes nothing
(R111): at an edge every register, flag and port keeps what it has. Where its value acts, in an accepted command, is `SETRGB`. -/

namespace Sys2Proof.Machine

/-- `HEXCHAR.'0'` (R103): value 0. -/
def execHexchar0 (s : State) : Host.Outcome State Fault Refusal := .next s

/-- `HEXCHAR.'1'` (R103): value 1. -/
def execHexchar1 (s : State) : Host.Outcome State Fault Refusal := .next s

/-- `HEXCHAR.'2'` (R103): value 2. -/
def execHexchar2 (s : State) : Host.Outcome State Fault Refusal := .next s

/-- `HEXCHAR.'3'` (R103): value 3. -/
def execHexchar3 (s : State) : Host.Outcome State Fault Refusal := .next s

/-- `HEXCHAR.'4'` (R103): value 4. -/
def execHexchar4 (s : State) : Host.Outcome State Fault Refusal := .next s

/-- `HEXCHAR.'5'` (R103): value 5. -/
def execHexchar5 (s : State) : Host.Outcome State Fault Refusal := .next s

/-- `HEXCHAR.'6'` (R103): value 6. -/
def execHexchar6 (s : State) : Host.Outcome State Fault Refusal := .next s

/-- `HEXCHAR.'7'` (R103): value 7. -/
def execHexchar7 (s : State) : Host.Outcome State Fault Refusal := .next s

/-- `HEXCHAR.'8'` (R103): value 8. -/
def execHexchar8 (s : State) : Host.Outcome State Fault Refusal := .next s

/-- `HEXCHAR.'9'` (R103): value 9. -/
def execHexchar9 (s : State) : Host.Outcome State Fault Refusal := .next s

/-- `HEXCHAR.'A'` (R104): value 10. -/
def execHexcharUpperA (s : State) : Host.Outcome State Fault Refusal := .next s

/-- `HEXCHAR.'B'` (R104): value 11. -/
def execHexcharUpperB (s : State) : Host.Outcome State Fault Refusal := .next s

/-- `HEXCHAR.'C'` (R104): value 12. -/
def execHexcharUpperC (s : State) : Host.Outcome State Fault Refusal := .next s

/-- `HEXCHAR.'D'` (R104): value 13. -/
def execHexcharUpperD (s : State) : Host.Outcome State Fault Refusal := .next s

/-- `HEXCHAR.'E'` (R104): value 14. -/
def execHexcharUpperE (s : State) : Host.Outcome State Fault Refusal := .next s

/-- `HEXCHAR.'F'` (R104): value 15. -/
def execHexcharUpperF (s : State) : Host.Outcome State Fault Refusal := .next s

/-- `HEXCHAR.'a'` (R105): value 10. -/
def execHexcharLowerA (s : State) : Host.Outcome State Fault Refusal := .next s

/-- `HEXCHAR.'b'` (R105): value 11. -/
def execHexcharLowerB (s : State) : Host.Outcome State Fault Refusal := .next s

/-- `HEXCHAR.'c'` (R105): value 12. -/
def execHexcharLowerC (s : State) : Host.Outcome State Fault Refusal := .next s

/-- `HEXCHAR.'d'` (R105): value 13. -/
def execHexcharLowerD (s : State) : Host.Outcome State Fault Refusal := .next s

/-- `HEXCHAR.'e'` (R105): value 14. -/
def execHexcharLowerE (s : State) : Host.Outcome State Fault Refusal := .next s

/-- `HEXCHAR.'f'` (R105): value 15. -/
def execHexcharLowerF (s : State) : Host.Outcome State Fault Refusal := .next s

end Sys2Proof.Machine
end

