-- ==== Sys2Proof/Machine/Dispatch.lean ====
section
/-! DEFINITION. Every instruction's arm. -/

namespace Sys2Proof.Machine

/-- What an instruction does at one clock edge. -/
def exec (i : Instr) (s : State) : Host.Outcome State Fault Refusal :=
  match i with
  | .setrgb rh rl gh gl bh bl => Sys2Proof.Machine.execSetrgb rh rl gh gl bh bl s
  | .hexchar0 => Sys2Proof.Machine.execHexchar0 s
  | .hexchar1 => Sys2Proof.Machine.execHexchar1 s
  | .hexchar2 => Sys2Proof.Machine.execHexchar2 s
  | .hexchar3 => Sys2Proof.Machine.execHexchar3 s
  | .hexchar4 => Sys2Proof.Machine.execHexchar4 s
  | .hexchar5 => Sys2Proof.Machine.execHexchar5 s
  | .hexchar6 => Sys2Proof.Machine.execHexchar6 s
  | .hexchar7 => Sys2Proof.Machine.execHexchar7 s
  | .hexchar8 => Sys2Proof.Machine.execHexchar8 s
  | .hexchar9 => Sys2Proof.Machine.execHexchar9 s
  | .hexcharUpperA => Sys2Proof.Machine.execHexcharUpperA s
  | .hexcharUpperB => Sys2Proof.Machine.execHexcharUpperB s
  | .hexcharUpperC => Sys2Proof.Machine.execHexcharUpperC s
  | .hexcharUpperD => Sys2Proof.Machine.execHexcharUpperD s
  | .hexcharUpperE => Sys2Proof.Machine.execHexcharUpperE s
  | .hexcharUpperF => Sys2Proof.Machine.execHexcharUpperF s
  | .hexcharLowerA => Sys2Proof.Machine.execHexcharLowerA s
  | .hexcharLowerB => Sys2Proof.Machine.execHexcharLowerB s
  | .hexcharLowerC => Sys2Proof.Machine.execHexcharLowerC s
  | .hexcharLowerD => Sys2Proof.Machine.execHexcharLowerD s
  | .hexcharLowerE => Sys2Proof.Machine.execHexcharLowerE s
  | .hexcharLowerF => Sys2Proof.Machine.execHexcharLowerF s
  | .illegalWronglength len => Sys2Proof.Machine.execIllegalWronglength len s
  | .illegalInvaliddigit b0 b1 b2 b3 b4 b5 => Sys2Proof.Machine.execIllegalInvaliddigit b0 b1 b2 b3 b4 b5 s
  | .sym0 => Sys2Proof.Machine.execSym0 s
  | .sym1 => Sys2Proof.Machine.execSym1 s
  | .reset => Sys2Proof.Machine.execReset s
  | .render c => Sys2Proof.Machine.execRender c s

end Sys2Proof.Machine
end

