-- ==== Sys2Proof/Machine/Sequencer.lean ====
section
/-! DEFINITION. The Command Loop (42_sequencer.md): which instruction an edge runs, what an edge does that runs none, and how
an instruction word is placed so that the next edge runs it. -/

namespace Sys2Proof.Machine

/-- The read presented at an accept edge, decoded (R171): the length is tested first and only a read of six bytes is looked
at, by `MemRead(0, 6)` (R51, R101). A `cmd_len` above `LMAX` is a wrong length like any other (R171). -/
def fetchRead (s : State) : Except Fault Instr :=
  if s.port.cmdLen = cmdLength then (memRead s.params s.port 0 cmdLength).map decodeRead
  else .ok (.illegalWronglength s.port.cmdLen)

/-- The LINE element whose tick the transmitter is at (R137, R150). -/
def lineElement (s : State) : Option Instr :=
  match s.phase with
  | .hi => some (if s.presentBit then .sym1 else .sym0)
  | .lo => some (if s.presentBit then .sym1 else .sym0)
  | .gap => some .reset
  | .idle => none

/-- The character that stands on byte 0 of DEC's six while the block waits and no read is presented: its value is on DEC's
wires and is ignored (R113), and its row changes nothing, as R178 asks of such an edge (log 4). -/
def drivenChar (i : Input) : Option Instr :=
  if i.cmdLen = cmdLength then (hexChar (i.cmdData.read 0)).map HexChar.instr else none

/-- The instruction this edge runs, if any (R182): at an accept edge (R171) the decoded read; while the transmitter is at
work its LINE element; in `WAIT` with nothing presented, a driven character. An empty read (R174) and `DIAG` run none. -/
def fetch (s : State) : Except Fault (Option Instr) :=
  match s.seq with
  | .wait =>
    match s.phase with
    | .idle =>
      if s.port.cmdValid then
        (if s.port.cmdLen = 0 then .ok none else (fetchRead s).map some)
      else .ok (drivenChar s.port)
    | .hi => .ok (lineElement s)
    | .lo => .ok (lineElement s)
    | .gap => .ok (lineElement s)
  | .diag => .ok none
  | .render => .ok (lineElement s)

/-- An edge that runs no instruction: from `DIAG` the return to `WAIT` (R175); an empty read or nothing presented changes
nothing (R174, R178). -/
def plainEdge (s : State) : State :=
  match s.seq with
  | .diag => returnToWait s
  | .wait => s
  | .render => s

/-- The edge ends: the outcome's state moves on to the next interval. -/
def endEdge : Host.Outcome State Fault Refusal → Host.Outcome State Fault Refusal
  | .next s => .next s.advance
  | .fault f => .fault f
  | .refused r => .refused r

/-- `s` waiting for a command, with `i` on the input ports at the next edge. -/
def State.waitingWith (s : State) (i : Input) : State :=
  { s with seq := .wait, phase := .idle, tick := 0, inputs := i :: s.inputs.tail }

/-- `s` rendering, at the first tick of a symbol of bit `b`, the last of its frame. -/
def State.atSymbol (s : State) (b : Bool) : State :=
  { s with seq := .render, sr := if b then 0x800000#24 else 0#24, bitcnt := 1, phase := .hi,
           tick := highTicks s.params b, fail := false, inputs := .quiet :: s.inputs.tail }

/-- `s` rendering, at the first tick of the reset interval. -/
def State.atReset (s : State) : State :=
  { s with seq := .render, sr := 0, bitcnt := 0, phase := .gap, tick := s.params.tReset, inputs := .quiet :: s.inputs.tail }

/-- The command that spells a Color in lower case. -/
def commandOf (c : Color) : List Byte :=
  [c.r.extractLsb' 4 4, c.r.extractLsb' 0 4, c.g.extractLsb' 4 4, c.g.extractLsb' 0 4, c.b.extractLsb' 4 4,
    c.b.extractLsb' 0 4].map fun d =>
      if h : d.toNat < 10 then (HexChar.digit ⟨d.toNat, h⟩).code
      else (HexChar.lower ⟨d.toNat - 10, by omega⟩).code

/-- `s` with the code placed where the next edge takes it from (log 2): a character or a read on the ports of a waiting
block, the read cut to `LMAX` bytes as the transport cuts it (R171); a symbol or the reset interval in the transmitter;
for a whole frame, which only `SETRGB` starts (R172), the command of its Color. -/
def placeCode (s : State) (c : Code) : State :=
  match c with
  | .char b => s.waitingWith (.drive b)
  | .read buf => s.waitingWith (.present (buf.take s.params.lmax))
  | .line ls =>
    match decodeLine s.params ls with
    | some .sym0 => s.atSymbol false
    | some .sym1 => s.atSymbol true
    | some (.render col) => s.waitingWith (.present (commandOf col))
    | _ => s.atReset

end Sys2Proof.Machine
end

