-- ==== Sys2Proof/Machine/Step.lean ====
section
/-! DEFINITION. One step: the whole block at one rising edge of `clk` (R8, R182). -/

namespace Sys2Proof.Machine

/-- `S_n = step(S_{n-1}, I_n)` (R182), with `I_n` what the ports carry at this edge. A parameter set that breaks R7 is
refused. `rst` wins over everything (R198, R220); then the edge runs the instruction `fetch` gives, if any. -/
def step (s : State) : Host.Outcome State Fault Refusal :=
  if s.params.valid then
    if s.port.rst then .next (resetRegisters s).advance
    else
      match fetch s with
      | .error f => .fault f
      | .ok (some i) => endEdge (exec i s)
      | .ok none => .next (plainEdge s).advance
  else .refused .badParameters

/-- `s` with an instruction word of the opcode table placed where the next step runs it (log 2). -/
def State.withFetchWord (s : State) (nbits w : Nat) : State := placeCode s (tableCodeOrRead nbits w)

end Sys2Proof.Machine
end

