-- ==== Sys2Proof/Safety.lean ====
section
/-! DEFINITION. What claims are made of: runs of clock edges and what the line carries over them, the named premises on the
environment (R235), the invariant of R35, and R182's listing of the whole step, transcribed. -/

namespace Sys2Proof.Safety

open Sys2Proof.Machine

/-! ## Runs (R12, R236) -/

/-- The input sampled `k` edges after the next one. -/
def inputAt (s : State) (k : Nat) : Input := s.inputs.getD k (freeInput s.params (s.edge + 1 + k))

/-- The state one edge later; where the step stops, the present one. -/
def afterEdge (s : State) : State :=
  match step s with
  | .next t => t
  | .fault _ => s
  | .refused _ => s

/-- The state `k` edges later. -/
def after : Nat → State → State
  | 0, s => s
  | k + 1, s => after k (afterEdge s)

/-- The levels of `dout` over `n` intervals, the present one first (R12). -/
def levels (n : Nat) (s : State) : List Level := (List.range n).map fun k => (after k s).dout

/-- A run is quiescent here (R236): every accepted command is fully handled. -/
def Quiescent (s : State) : Prop := s.seq = .wait ∧ s.phase = .idle

/-- What the next edge decodes, if it is an accept edge (R171). -/
def accepted (s : State) : Option (Except DecodeError Color) :=
  if s.port.rst = false ∧ s.cmdReady = true ∧ s.port.cmdValid = true ∧ s.port.cmdLen ≠ 0 then
    some (decodeResult (s.port.cmdData.readBytes 0 s.port.cmdLen))
  else none

/-- Some instructions executed one after the other, the inputs standing still. -/
def execAll : List Instr → State → Host.Outcome State Fault Refusal
  | [], s => .next s
  | i :: is, s =>
    match exec i s with
    | .next t => execAll is t
    | .fault f => .fault f
    | .refused r => .refused r

/-! ## The environment's named premises (R235) -/

/-- `NoReset`: `rst = 0` at the `n` edges from the one `a` after the next. -/
def NoReset (s : State) (a n : Nat) : Prop := ∀ k, a ≤ k → k < a + n → (inputAt s k).rst = false

/-- `NoUnderrun`: `underrun = 0` at those edges. -/
def NoUnderrun (s : State) (a n : Nat) : Prop := ∀ k, a ≤ k → k < a + n → (inputAt s k).underrun = false

/-- A read of the bytes `buf` is presented `k` edges after the next one (R31); the bytes past it are whatever they are. -/
def Presents (s : State) (k : Nat) (buf : List Byte) : Prop :=
  (inputAt s k).cmdValid = true ∧ (inputAt s k).cmdLen = buf.length ∧
    (inputAt s k).cmdData.readBytes 0 buf.length = buf

/-- `Hold` (R230, first sentence): a read presented while `cmd_ready` is 0 stands unchanged at the next edge, for the next
`n` edges. -/
def Hold (s : State) (n : Nat) : Prop :=
  ∀ k buf, k < n → (after k s).cmdReady = false → Presents s k buf → Presents s (k + 1) buf

/-! ## The invariant (R35) -/

/-- R35's clauses, by its numbers, on the state. -/
structure Inv (s : State) : Prop where
  /-- 2: `DIAG` means an idle transmitter and a recorded error. -/
  diag : s.seq = .diag → s.phase = .idle ∧ s.err ≠ .none
  /-- 3: `RENDER` means `HI`, `LO` or `GAP`. -/
  render : s.seq = .render → s.phase ≠ .idle
  /-- 4, first half: `WAIT` means `IDLE` or `GAP`. -/
  wait : s.seq = .wait → s.phase = .idle ∨ s.phase = .gap
  /-- 5. -/
  idle : s.phase = .idle → s.tick = 0 ∧ s.bitcnt = 0 ∧ s.sr = 0
  /-- 6. -/
  gap : s.phase = .gap → 1 ≤ s.tick ∧ s.tick ≤ s.params.tReset ∧ s.bitcnt = 0 ∧ s.sr = 0
  /-- 7. -/
  hi : s.phase = .hi → 1 ≤ s.bitcnt.toNat ∧ s.bitcnt.toNat ≤ 24 ∧ 1 ≤ s.tick ∧
    s.tick ≤ highTicks s.params s.presentBit ∧ ∀ k, k < 24 - s.bitcnt.toNat → s.sr.getLsbD k = false
  /-- 8. -/
  lo : s.phase = .lo → 1 ≤ s.bitcnt.toNat ∧ s.bitcnt.toNat ≤ 24 ∧ 1 ≤ s.tick ∧
    s.tick ≤ lowTicks s.params s.presentBit ∧ ∀ k, k < 24 - s.bitcnt.toNat → s.sr.getLsbD k = false
  /-- 9. -/
  fail : s.fail = true → s.phase = .gap ∨ s.phase = .idle
  /-- 10. -/
  dout : s.dout = true → s.seq = .render
  /-- The width of `tick` (R20, R26). -/
  tickWidth : s.tick < 2 ^ s.params.tickW

/-! ## The whole step as R182 and R150 list it -/

/-- The seven registers of R20, and nothing else. -/
structure Registers where
  seq    : Seq
  err    : Err
  sr     : Frame
  bitcnt : BitVec 5
  phase  : Phase
  tick   : Nat
  fail   : Bool
  deriving DecidableEq, Repr

/-- The registers of a state. -/
def registers (s : State) : Registers :=
  { seq := s.seq, err := s.err, sr := s.sr, bitcnt := s.bitcnt, phase := s.phase, tick := s.tick, fail := s.fail }

/-- `tx_advance(underrun)` (R150): the new registers and `finished`, read before the update. -/
def listedAdvance (p : Params) (underrun : Bool) (r : Registers) : Registers × Bool :=
  let finished := decide (r.phase = .gap) && decide (r.tick = 1)
  let r' : Registers :=
    match r.phase with
    | .idle => r
    | .hi =>
      if underrun then { r with fail := true, phase := .gap, tick := p.tReset, bitcnt := 0, sr := 0 }
      else if 1 < r.tick then { r with tick := r.tick - 1 }
      else { r with phase := .lo, tick := if r.sr.getLsbD 23 then p.t1l else p.t0l }
    | .lo =>
      if underrun then { r with fail := true, phase := .gap, tick := p.tReset, bitcnt := 0, sr := 0 }
      else if 1 < r.tick then { r with tick := r.tick - 1 }
      else if r.bitcnt = 1 then
        { r with sr := r.sr <<< 1, bitcnt := r.bitcnt - 1, phase := .gap, tick := p.tReset }
      else
        { r with sr := r.sr <<< 1, bitcnt := r.bitcnt - 1, phase := .hi,
                 tick := if r.sr.getLsbD 22 then p.t1h else p.t0h }
    | .gap => if 1 < r.tick then { r with tick := r.tick - 1 } else { r with phase := .idle, tick := 0 }
  (r', finished)

/-- `step(S, I)` (R182) on the registers, its reads by R51 and its `decode` by R100. -/
def listedStep (p : Params) (i : Input) (r : Registers) : Registers :=
  if i.rst then { seq := .wait, err := .none, sr := 0, bitcnt := 0, phase := .gap, tick := p.tReset, fail := false }
  else
    match r.seq with
    | .wait =>
      if r.phase = .idle then
        if i.cmdValid = true ∧ i.cmdLen ≠ 0 then
          match decodeResult (i.cmdData.readBytes 0 i.cmdLen) with
          | .ok c =>
            { r with sr := c.r ++ c.g ++ c.b, bitcnt := 24, phase := .hi,
                     tick := if c.r.getLsbD 7 then p.t1h else p.t0h, fail := false, seq := .render }
          | .error .wrongLength => { r with err := .wrongLength, seq := .diag }
          | .error .invalidDigit => { r with err := .invalidDigit, seq := .diag }
        else r
      else (listedAdvance p false r).1
    | .diag => { r with seq := .wait }
    | .render =>
      if (listedAdvance p i.underrun r).2 then { (listedAdvance p i.underrun r).1 with seq := .wait }
      else (listedAdvance p i.underrun r).1

end Sys2Proof.Safety
end

