-- ==== Sys2Proof/Certificates/Slice0/Obligations.lean ====
section
/-! DEFINITION. The statements for the provers. Each names the rule of spec/ it comes from; where a clause is the model's own
choice it names the log entry of notes/assumptions/. -/

open Sys2Proof Sys2Proof.Machine Sys2Proof.Safety

/-! ## Encodings and level L1 -/

/-- DECODE AND ENCODE AGREE: for every parameter set within R7 and every well-formed instruction of all 29 rows, decoding
what the encoder writes gives the instruction back, with every operand (30_encoding.md R71 to R80). -/
def Obligations.DecodeOfEncodeIsIdentity : Prop :=
  ∀ (p : Params) (i : Instr), p.Valid → i.wf = true → decode p (encode p i) = .ok i

/-- R72: a byte is a hexadecimal digit character exactly in the three ranges, 22 bytes of the 256, and the decoder rejects
every other byte by name. -/
def Obligations.HexDigitCharactersAreThreeRanges : Prop :=
  (∀ b : Byte, (hexval b).isSome = true ↔
    (0x30#8 ≤ b ∧ b ≤ 0x39#8) ∨ (0x41#8 ≤ b ∧ b ≤ 0x46#8) ∨ (0x61#8 ≤ b ∧ b ≤ 0x66#8)) ∧
  ((List.range 256).filter fun n => (hexval (BitVec.ofNat 8 n)).isSome).length = 22 ∧
  ∀ (p : Params) (b : Byte), hexval b = none → decode p (.char b) = .error (.notAHexDigit b)

/-- R103, R104, R105: the value of a character of each class. -/
def Obligations.DigitValueByClass : Prop :=
  ∀ b : Byte,
    (0x30#8 ≤ b ∧ b ≤ 0x39#8 → hexval b = some ((b - 0x30#8).setWidth 4) ∧ hexval b = some (b.extractLsb' 0 4)) ∧
    (0x41#8 ≤ b ∧ b ≤ 0x46#8 → hexval b = some ((b - 0x41#8 + 10#8).setWidth 4)) ∧
    (0x61#8 ≤ b ∧ b ≤ 0x66#8 → hexval b = some ((b - 0x61#8 + 10#8).setWidth 4))

/-- R106: `pair(h, l) = 16*hexval(h) + hexval(l)`, equally the concatenation; "1A" is 26 and "A1" is 161. -/
def Obligations.PairIsHighDigitFirst : Prop :=
  (∀ h l : HexChar, (h.pair l).toNat = 16 * h.value.toNat + l.value.toNat ∧ h.pair l = h.value ++ l.value) ∧
  HexChar.pair (.digit 1) (.upper 0) = 26#8 ∧ HexChar.pair (.upper 0) (.digit 1) = 161#8 ∧
  HexChar.pair (.lower 5) (.upper 5) = 255#8 ∧ HexChar.pair (.digit 0) (.digit 0) = 0#8

/-- R101 and R102: `decode` tests the length first, whatever the bytes are, then every one of the six digits; and it always
succeeds on six digits (R107). -/
def Obligations.DecodeTestsLengthThenDigits : Prop :=
  ∀ buf : List Byte,
    (buf.length ≠ 6 → decodeResult buf = .error .wrongLength) ∧
    (buf.length = 6 → (∃ b ∈ buf, hexval b = none) → decodeResult buf = .error .invalidDigit) ∧
    (buf.length = 6 → (∀ b ∈ buf, hexval b ≠ none) → ∃ c, decodeResult buf = .ok c)

/-- The instruction a read decodes to and `decode`'s result (R100) say the same: `SETRGB` carries the Color, the two illegal
classes are the two errors, and what is decoded is well formed. -/
def Obligations.DecodedReadAgreesWithDecodeResult : Prop :=
  ∀ buf : List Byte, (decodeRead buf).wf = true ∧
    match decodeRead buf with
    | .setrgb rh rl gh gl bh bl => decodeResult buf = .ok (commandColor rh rl gh gl bh bl)
    | .illegalWronglength len => decodeResult buf = .error .wrongLength ∧ len = buf.length
    | .illegalInvaliddigit b0 b1 b2 b3 b4 b5 =>
      decodeResult buf = .error .invalidDigit ∧ buf = [b0, b1, b2, b3, b4, b5]
    | _ => False

/-- R112: replacing a letter by the same letter in the other case (0x20 added to an upper-case one, removed from a
lower-case one) at any place of a read leaves `decode` unchanged. -/
def Obligations.LetterCaseDoesNotMatter : Prop :=
  ∀ (buf : List Byte) (k : Nat) (b : Byte), buf[k]? = some b →
    (0x41#8 ≤ b ∧ b ≤ 0x46#8 → decodeResult (buf.set k (b + 0x20#8)) = decodeResult buf) ∧
    (0x61#8 ≤ b ∧ b ≤ 0x66#8 → decodeResult (buf.set k (b - 0x20#8)) = decodeResult buf)

/-- R75 and R132: the 24 frame bits are red, green, blue, each most significant first; bit `k` sent is `F[23-k]`. -/
def Obligations.FrameBitsAreRedGreenBlueMsbFirst : Prop :=
  ∀ c : Color,
    frameBits c = ((List.range 8).map fun k => c.r.getLsbD (7 - k)) ++ ((List.range 8).map fun k => c.g.getLsbD (7 - k)) ++
      ((List.range 8).map fun k => c.b.getLsbD (7 - k)) ∧
    (∀ k, k < 24 → (frameBits c)[k]? = some (c.word.getLsbD (23 - k))) ∧
    c.word.extractLsb' 16 8 = c.r ∧ c.word.extractLsb' 8 8 = c.g ∧ c.word.extractLsb' 0 8 = c.b

/-- R136: `frame_wave(c)` tick for tick: its length, the level at every offset, its pulses, the number of high ticks. -/
def Obligations.FrameWaveTickForTick : Prop :=
  ∀ (p : Params) (c : Color), p.Valid →
    (frameWave p c).length = 24 * (p.t0h + p.t0l) + p.tReset ∧
    (∀ k b j, (frameBits c)[k]? = some b → j < p.t0h + p.t0l →
      (frameWave p c)[k * (p.t0h + p.t0l) + j]? = some (decide (j < if b then p.t1h else p.t0h))) ∧
    (∀ j, j < p.tReset → (frameWave p c)[24 * (p.t0h + p.t0l) + j]? = some false) ∧
    pulseWidths 0 (frameWave p c) = (frameBits c).map (fun b => if b then p.t1h else p.t0h) ∧
    (frameWave p c).count true = p.t0h * (frameBits c).count false + p.t1h * (24 - (frameBits c).count false)

/-- S12 of 95_test_vectors.md, the round trip by pulse widths, on one frame: telling each bit of `frame_wave(c)` by its pulse's
width gives `c`, for every parameter set within R7. This is the second step of 2.5's receiver, on one piece; its first, the split
at low runs of `TRESET` ticks, is left out here (log 15) and is in ReceiverReadsEveryFrameOfATrace. -/
def Obligations.ReceiverReadsTheColorBack : Prop :=
  ∀ (p : Params) (c : Color), p.Valid → receive p (frameWave p c) = some c

/-- Words of the opcode table and of 95_test_vectors.md, written out, decode to their instructions. That a
word of 8 bits is a HEXCHAR row is the model's choice (log 8): as a whole read, one byte is a wrong length (R79). -/
def Obligations.WrittenOutWordsDecode : Prop :=
  decodeRead [0x66, 0x66, 0x30, 0x30, 0x30, 0x30] =
    .setrgb (.lower 5) (.lower 5) (.digit 0) (.digit 0) (.digit 0) (.digit 0) ∧
  decodeRead [0x7a, 0x7a, 0x30, 0x30, 0x30, 0x30] = .illegalInvaliddigit 0x7a 0x7a 0x30 0x30 0x30 0x30 ∧
  decodeRead [0x66, 0x66, 0x30, 0x30] = .illegalWronglength 4 ∧
  decodeTableWord 8 0x37 = some .hexchar7 ∧ decodeTableWord 8 0x41 = some .hexcharUpperA ∧
  decodeTableWord 8 0x66 = some .hexcharLowerF

/-! ## What each instruction does -/

/-- R103: the values 0 to 9. Each row of the class `DIGIT` is its byte's, completes in every state and writes nothing (R111), and wherever its
byte stands on `cmd_data` DEC's wires carry its value there (R113). -/
def Obligations.DigitRowsEvaluateTheirCharacter : Prop :=
  ∀ (p : Params) (s : State) (k : Nat),
    (decode p (.char 0x30#8) = .ok .hexchar0 ∧ exec .hexchar0 s = .next s ∧
      (s.port.cmdData.read k = 0x30#8 → s.port.digit k = some 0#4)) ∧
    (decode p (.char 0x31#8) = .ok .hexchar1 ∧ exec .hexchar1 s = .next s ∧
      (s.port.cmdData.read k = 0x31#8 → s.port.digit k = some 1#4)) ∧
    (decode p (.char 0x32#8) = .ok .hexchar2 ∧ exec .hexchar2 s = .next s ∧
      (s.port.cmdData.read k = 0x32#8 → s.port.digit k = some 2#4)) ∧
    (decode p (.char 0x33#8) = .ok .hexchar3 ∧ exec .hexchar3 s = .next s ∧
      (s.port.cmdData.read k = 0x33#8 → s.port.digit k = some 3#4)) ∧
    (decode p (.char 0x34#8) = .ok .hexchar4 ∧ exec .hexchar4 s = .next s ∧
      (s.port.cmdData.read k = 0x34#8 → s.port.digit k = some 4#4)) ∧
    (decode p (.char 0x35#8) = .ok .hexchar5 ∧ exec .hexchar5 s = .next s ∧
      (s.port.cmdData.read k = 0x35#8 → s.port.digit k = some 5#4)) ∧
    (decode p (.char 0x36#8) = .ok .hexchar6 ∧ exec .hexchar6 s = .next s ∧
      (s.port.cmdData.read k = 0x36#8 → s.port.digit k = some 6#4)) ∧
    (decode p (.char 0x37#8) = .ok .hexchar7 ∧ exec .hexchar7 s = .next s ∧
      (s.port.cmdData.read k = 0x37#8 → s.port.digit k = some 7#4)) ∧
    (decode p (.char 0x38#8) = .ok .hexchar8 ∧ exec .hexchar8 s = .next s ∧
      (s.port.cmdData.read k = 0x38#8 → s.port.digit k = some 8#4)) ∧
    (decode p (.char 0x39#8) = .ok .hexchar9 ∧ exec .hexchar9 s = .next s ∧
      (s.port.cmdData.read k = 0x39#8 → s.port.digit k = some 9#4))

/-- R104: the values 10 to 15. Each row of the class `UPPER` is its byte's, completes in every state and writes nothing (R111), and wherever its
byte stands on `cmd_data` DEC's wires carry its value there (R113). -/
def Obligations.UpperRowsEvaluateTheirCharacter : Prop :=
  ∀ (p : Params) (s : State) (k : Nat),
    (decode p (.char 0x41#8) = .ok .hexcharUpperA ∧ exec .hexcharUpperA s = .next s ∧
      (s.port.cmdData.read k = 0x41#8 → s.port.digit k = some 10#4)) ∧
    (decode p (.char 0x42#8) = .ok .hexcharUpperB ∧ exec .hexcharUpperB s = .next s ∧
      (s.port.cmdData.read k = 0x42#8 → s.port.digit k = some 11#4)) ∧
    (decode p (.char 0x43#8) = .ok .hexcharUpperC ∧ exec .hexcharUpperC s = .next s ∧
      (s.port.cmdData.read k = 0x43#8 → s.port.digit k = some 12#4)) ∧
    (decode p (.char 0x44#8) = .ok .hexcharUpperD ∧ exec .hexcharUpperD s = .next s ∧
      (s.port.cmdData.read k = 0x44#8 → s.port.digit k = some 13#4)) ∧
    (decode p (.char 0x45#8) = .ok .hexcharUpperE ∧ exec .hexcharUpperE s = .next s ∧
      (s.port.cmdData.read k = 0x45#8 → s.port.digit k = some 14#4)) ∧
    (decode p (.char 0x46#8) = .ok .hexcharUpperF ∧ exec .hexcharUpperF s = .next s ∧
      (s.port.cmdData.read k = 0x46#8 → s.port.digit k = some 15#4))

/-- R105: the values 10 to 15, the same as the upper-case letters. Each row of the class `LOWER` is its byte's, completes in every state and writes nothing (R111), and wherever its
byte stands on `cmd_data` DEC's wires carry its value there (R113). -/
def Obligations.LowerRowsEvaluateTheirCharacter : Prop :=
  ∀ (p : Params) (s : State) (k : Nat),
    (decode p (.char 0x61#8) = .ok .hexcharLowerA ∧ exec .hexcharLowerA s = .next s ∧
      (s.port.cmdData.read k = 0x61#8 → s.port.digit k = some 10#4)) ∧
    (decode p (.char 0x62#8) = .ok .hexcharLowerB ∧ exec .hexcharLowerB s = .next s ∧
      (s.port.cmdData.read k = 0x62#8 → s.port.digit k = some 11#4)) ∧
    (decode p (.char 0x63#8) = .ok .hexcharLowerC ∧ exec .hexcharLowerC s = .next s ∧
      (s.port.cmdData.read k = 0x63#8 → s.port.digit k = some 12#4)) ∧
    (decode p (.char 0x64#8) = .ok .hexcharLowerD ∧ exec .hexcharLowerD s = .next s ∧
      (s.port.cmdData.read k = 0x64#8 → s.port.digit k = some 13#4)) ∧
    (decode p (.char 0x65#8) = .ok .hexcharLowerE ∧ exec .hexcharLowerE s = .next s ∧
      (s.port.cmdData.read k = 0x65#8 → s.port.digit k = some 14#4)) ∧
    (decode p (.char 0x66#8) = .ok .hexcharLowerF ∧ exec .hexcharLowerF s = .next s ∧
      (s.port.cmdData.read k = 0x66#8 → s.port.digit k = some 15#4))

/-- Six characters on the port, in buffer order, put `Ok` and the word `r:g:b` of the Color they spell on DEC's outputs (R57,
R74, R107, R113), and their six rows write nothing (R111). -/
def Obligations.SixCharacterRowsSpellTheColor : Prop :=
  ∀ (s : State) (c0 c1 c2 c3 c4 c5 : HexChar),
    s.port.cmdLen = 6 → s.port.cmdData.readBytes 0 6 = [c0.code, c1.code, c2.code, c3.code, c4.code, c5.code] →
    decOutputs s.port = .ok (c0.pair c1 ++ c2.pair c3 ++ c4.pair c5) ∧
    execAll [c0.instr, c1.instr, c2.instr, c3.instr, c4.instr, c5.instr] s = .next s

/-- R172 with R138: where a command can be accepted, `SETRGB` completes; the frame of its Color is loaded, the first symbol's
high part begins, `fail` is cleared, `err` keeps its value, and nothing else of the block or the environment changes. -/
def Obligations.SetrgbLoadsTheFrame : Prop :=
  ∀ (s : State) (rh rl gh gl bh bl : HexChar), s.cmdReady = true →
    exec (.setrgb rh rl gh gl bh bl) s =
      .next { s with seq := .render, sr := rh.pair rl ++ gh.pair gl ++ bh.pair bl, bitcnt := 24, phase := .hi,
                     tick := if (rh.pair rl).getLsbD 7 then s.params.t1h else s.params.t0h, fail := false }

/-- R199 with R173: where a command can be accepted, a failing decode writes `err` and goes to `DIAG`, and nothing else
changes. -/
def Obligations.DecodeErrorEntersDiag : Prop :=
  ∀ s : State, s.cmdReady = true →
    (∀ len, len ≠ 0 → exec (.illegalWronglength len) s = .next { s with err := .wrongLength, seq := .diag }) ∧
    (∀ b0 b1 b2 b3 b4 b5, exec (.illegalInvaliddigit b0 b1 b2 b3 b4 b5) s =
      .next { s with err := .invalidDigit, seq := .diag })

/-- While `cmd_ready` is 0 the rows of the three kinds of read change nothing. R64 says that such a read transfers nothing; that
`exec` of its row then answers the same state is the model's reading of it (log 11), as no step runs the row there. -/
def Obligations.CommandsWhileBusyChangeNothing : Prop :=
  ∀ s : State, s.cmdReady = false →
    (∀ rh rl gh gl bh bl, exec (.setrgb rh rl gh gl bh bl) s = .next s) ∧
    (∀ len, exec (.illegalWronglength len) s = .next s) ∧
    (∀ b0 b1 b2 b3 b4 b5, exec (.illegalInvaliddigit b0 b1 b2 b3 b4 b5) s = .next s)

/-- With the transmitter in `IDLE`, `RENDER` loads the frame of its Color (R138) and the sequencer goes to `RENDER`, as R172 has it
at an accept edge; nothing else changes. That the row's first edge is the load with `seq <- RENDER`, and that it is so in `DIAG`
too, where R170 has no arrow to `RENDER` and no step runs it, is the model's choice (log 5). -/
def Obligations.RenderLoadsTheFrame : Prop :=
  ∀ (s : State) (c : Color), s.phase = .idle →
    exec (.render c) s =
      .next { s with seq := .render, sr := c.r ++ c.g ++ c.b, bitcnt := 24, phase := .hi,
                     tick := if c.r.getLsbD 7 then s.params.t1h else s.params.t0h, fail := false }

/-- R131: a render asked for while one is in flight waits: whatever its Color, the edge is the tick of the LINE element
the active render is at (R176); it completes. The tick by tick form is the model's, as is its tick in `DIAG` with `phase` not
`IDLE`, outside R35 (log 5). -/
def Obligations.SecondRenderWaits : Prop :=
  ∀ (s : State) (c : Color), s.phase ≠ .idle →
    ∃ t, exec (.render c) s = .next t ∧
      (s.phase = .gap → exec .reset s = .next t) ∧
      (s.phase ≠ .gap → s.sr.getLsbD 23 = true → exec .sym1 s = .next t) ∧
      (s.phase ≠ .gap → s.sr.getLsbD 23 = false → exec .sym0 s = .next t)

/-- One tick of the high part, for both symbols (R133, R134), and, in a render, at the clock edge, where the symbol is that of
`sr[23]` (R139). That `SYM0` takes `T0L` and `SYM1` takes `T1L` whatever `sr[23]` is, and that `exec` of them ticks in `DIAG` too,
is the model's choice (log 5); `WAIT` with `HI`, outside R35, is the model's deduction (log 10). -/
def Obligations.HighPartTick : Prop :=
  ∀ s : State, s.phase = .hi → (s.seq = .render → s.port.underrun = false) →
    (1 < s.tick → exec .sym0 s = .next { s with tick := s.tick - 1 } ∧ exec .sym1 s = .next { s with tick := s.tick - 1 }) ∧
    (s.tick ≤ 1 → exec .sym0 s = .next { s with phase := .lo, tick := s.params.t0l } ∧
      exec .sym1 s = .next { s with phase := .lo, tick := s.params.t1l }) ∧
    (s.params.Valid → s.port.rst = false → s.seq = .render →
      step s = .next (if 1 < s.tick then { s with tick := s.tick - 1 }
        else { s with phase := .lo, tick := if s.sr.getLsbD 23 then s.params.t1l else s.params.t0l }).advance)

/-- One tick of the low part, for both symbols, and the end of the symbol (R140): the shift with 0 entering bit 0, `bitcnt`
down by one, then the reset interval after the last symbol and the next symbol, of the present `sr[22]`, after another. That
`exec` of the symbol `sr[23]` does not name ticks as well, and in `DIAG` too, is the model's choice (log 5). The states outside R35
are the model's deduction (log 10): `WAIT` with `LO`, and `bitcnt` 0, which wraps to 31, while R24 and R140 say that it never does. -/
def Obligations.LowPartTick : Prop :=
  ∀ s : State, s.phase = .lo → (s.seq = .render → s.port.underrun = false) →
    ∀ i, i = .sym0 ∨ i = .sym1 →
      (1 < s.tick → exec i s = .next { s with tick := s.tick - 1 }) ∧
      (s.tick ≤ 1 → s.bitcnt = 1 →
        exec i s = .next { s with sr := s.sr <<< 1, bitcnt := s.bitcnt - 1, phase := .gap, tick := s.params.tReset }) ∧
      (s.tick ≤ 1 → s.bitcnt ≠ 1 →
        exec i s = .next { s with sr := s.sr <<< 1, bitcnt := s.bitcnt - 1, phase := .hi,
                                  tick := if s.sr.getLsbD 22 then s.params.t1h else s.params.t0h })

/-- An underrun in `HI` or `LO` of a render aborts it, even at the last tick of the part; `seq` stays (R143, R198, R200). That
`exec` of the symbol `sr[23]` does not name, and of a `RENDER` row of any Color asked for in flight, is this edge too, is the tick
form of the model (log 5). -/
def Obligations.UnderrunAbortsTheFrame : Prop :=
  ∀ s : State, s.seq = .render → (s.phase = .hi ∨ s.phase = .lo) → s.port.underrun = true →
    ∀ i, (i = .sym0 ∨ i = .sym1 ∨ ∃ c, i = .render c) →
      exec i s = .next { s with fail := true, phase := .gap, tick := s.params.tReset, bitcnt := 0, sr := 0 }

/-- One tick of the reset interval, whatever `underrun` is (R141); the edge that ends a render's interval returns the sequencer
to `WAIT` (R176). Outside R35: that a render in `GAP` at `tick` 0 ends the interval with `seq` left at `RENDER` is the model's
deduction (log 10), and that `exec` of the row ticks in `DIAG` with `GAP` and keeps `DIAG` is its choice (log 5). -/
def Obligations.ResetIntervalTick : Prop :=
  ∀ s : State, s.phase = .gap →
    (1 < s.tick → exec .reset s = .next { s with tick := s.tick - 1 }) ∧
    (s.tick = 1 → s.seq = .render → exec .reset s = .next { s with phase := .idle, tick := 0, seq := .wait }) ∧
    (s.tick ≤ 1 → s.seq ≠ .render ∨ s.tick = 0 → exec .reset s = .next { s with phase := .idle, tick := 0 })

/-- R142: in `IDLE` the transmitter's elements change nothing, whatever `underrun` is; and, the model's choice (log 5), an
element that is not in progress changes nothing either. -/
def Obligations.ElementsNotInProgressChangeNothing : Prop :=
  ∀ s : State,
    (s.phase = .idle → exec .sym0 s = .next s ∧ exec .sym1 s = .next s ∧ exec .reset s = .next s) ∧
    (s.phase = .gap → exec .sym0 s = .next s ∧ exec .sym1 s = .next s) ∧
    (s.phase = .hi ∨ s.phase = .lo → exec .reset s = .next s)

/-- THE FRAME of every instruction: no instruction touches the parameters, the interval's number or what the environment
drives, so every byte of every buffer reads as before; and each family leaves every register alone but those its rules
name. -/
def Obligations.InstructionFrames : Prop :=
  ∀ (i : Instr) (s t : State), exec i s = .next t →
    t.params = s.params ∧ t.edge = s.edge ∧
    (∀ k a, (inputAt t k).cmdData.read a = (inputAt s k).cmdData.read a) ∧ t.inputs = s.inputs ∧
    match i with
    | .setrgb _ _ _ _ _ _ => t.err = s.err
    | .illegalWronglength _ | .illegalInvaliddigit _ _ _ _ _ _ =>
      t.sr = s.sr ∧ t.bitcnt = s.bitcnt ∧ t.phase = s.phase ∧ t.tick = s.tick ∧ t.fail = s.fail
    | .sym0 | .sym1 => t.seq = s.seq ∧ t.err = s.err
    | .reset => t.err = s.err ∧ t.sr = s.sr ∧ t.bitcnt = s.bitcnt ∧ t.fail = s.fail
    | .render _ => t.err = s.err
    | _ => registers t = registers s

/-! ## One step of the block -/

/-- A STEP RUNS THE DECODED READ (R171): at an accept edge the step is `exec` of what the presented bytes decode to, and the
edge ends. The length is tested before any byte. -/
def Obligations.StepRunsThePresentedRead : Prop :=
  ∀ s : State, s.params.Valid → s.port.rst = false → s.cmdReady = true → s.port.cmdValid = true →
    (s.port.cmdLen = 6 → step s = endEdge (exec (decodeRead [s.port.cmdData.read 0, s.port.cmdData.read 1,
      s.port.cmdData.read 2, s.port.cmdData.read 3, s.port.cmdData.read 4, s.port.cmdData.read 5]) s)) ∧
    (s.port.cmdLen ≠ 6 → s.port.cmdLen ≠ 0 → step s = endEdge (exec (.illegalWronglength s.port.cmdLen) s))

/-- A STEP RUNS THE LINE ELEMENT the transmitter is at (R150, R176, R178): the symbol of `sr[23]` in `HI` and `LO`, the
reset interval in `GAP`; `cmd_valid` is not looked at. That it is so in `WAIT` with `HI` or `LO`, outside R35, is the model's
deduction (log 10). -/
def Obligations.StepRunsTheLineElement : Prop :=
  ∀ s : State, s.params.Valid → s.port.rst = false → s.seq ≠ .diag →
    ((s.phase = .hi ∨ s.phase = .lo) →
      step s = endEdge (exec (if s.sr.getLsbD 23 then .sym1 else .sym0) s)) ∧
    (s.phase = .gap → step s = endEdge (exec .reset s))

/-- A character on byte 0 of DEC's six in a waiting block with no read presented: the edge is that of its row, which changes
nothing (R113, R178). That an edge which runs no command is this row's is the model's choice (log 4). -/
def Obligations.StepRunsTheDrivenCharacter : Prop :=
  ∀ (s : State) (c : HexChar), s.params.Valid → s.port.rst = false → s.cmdReady = true → s.port.cmdValid = false →
    s.port.cmdLen = 6 → s.port.cmdData.read 0 = c.code →
    step s = endEdge (exec c.instr s) ∧ step s = .next s.advance

/-- R175: from `DIAG` the block returns to `WAIT` at the next edge, and nothing else changes; `cmd_valid` and `underrun`
are not looked at. -/
def Obligations.DiagLastsOneEdge : Prop :=
  ∀ s : State, s.params.Valid → s.port.rst = false → s.seq = .diag →
    s.diagValid = true ∧ s.diagCode = s.err.code ∧ step s = .next { s with seq := .wait }.advance

/-- An empty read is consumed with no register changed (R174), and an edge with no read presented while the block waits changes
none either (R178); both complete. That `exec` of a wrong-length row of length 0 changes nothing is the model's reading (log 11):
the loop never asks the decoder for an empty read. -/
def Obligations.WaitingChangesNoRegister : Prop :=
  ∀ s : State, s.params.Valid → s.port.rst = false → s.cmdReady = true →
    (s.port.cmdValid = true → s.port.cmdLen = 0 →
      step s = .next s.advance ∧ exec (.illegalWronglength 0) s = .next s) ∧
    (s.port.cmdValid = false → ∃ t, step s = .next t ∧ registers t = registers s)

/-- R220 and R221: `rst = 1` gives every register its reset value, whatever the state and the other inputs were. -/
def Obligations.ResetWinsOverEverything : Prop :=
  ∀ s : State, s.params.Valid → s.port.rst = true →
    ∃ t, step s = .next t ∧ t.seq = .wait ∧ t.err = .none ∧ t.sr = 0 ∧ t.bitcnt = 0 ∧ t.phase = .gap ∧
      t.tick = s.params.tReset ∧ t.fail = false ∧ t.dout = false ∧ t.cmdReady = false ∧ t.diagValid = false ∧
      t.diagCode = 0 ∧ t.done = false ∧ t.failPort = false ∧ t.busy = true

/-- R182: for every state and every input, the machine's step, through its instructions, moves the seven registers exactly
as the rule's listing does, spends one input and keeps the parameters. R182 calls its step total on the states of R35; that
the listing is followed literally in every other state too is the model's deduction (log 10). -/
def Obligations.StepFollowsTheListing : Prop :=
  ∀ s : State, s.params.Valid →
    ∃ t, step s = .next t ∧ registers t = listedStep s.params s.port (registers s) ∧
      t.params = s.params ∧ t.edge = s.edge + 1 ∧ ∀ k, inputAt t k = inputAt s (k + 1)

/-- R7: a parameter set that breaks a constraint is refused, and the defaults of R6 break none. That the 50 us bound, which R7 gives
"for the reference protocol", binds every set, and its form without the division, are the model's choice (log 3). -/
def Obligations.BadParametersAreRefused : Prop :=
  (∀ s : State, ¬s.params.Valid → step s = .refused .badParameters) ∧ State.reset.params.Valid ∧
  ∀ p : Params, (p.t0h < 1 ∨ p.t0l ≤ p.t0h ∨ p.t1l < 1 ∨ p.t1h ≤ p.t1l ∨ p.t1h ≤ p.t0h ∨ p.t0h + p.t0l ≠ p.t1h + p.t1l ∨
    p.tReset < 1 ∨ 1000000 * p.tReset < 50 * p.fClk ∨ 2 ^ p.tickW ≤ p.t0h ∨ 2 ^ p.tickW ≤ p.t0l ∨ 2 ^ p.tickW ≤ p.t1h ∨
    2 ^ p.tickW ≤ p.t1l ∨ 2 ^ p.tickW ≤ p.tReset ∨ p.lmax < 7) → ¬p.Valid

/-- No input stops the block (R180, R195): with parameters within R7 every run of any length, from any state, goes on, and
`after` is where it stands. R182 calls its step total on the states of R35; that it goes on from every other state too is the
model's deduction (log 10). -/
def Obligations.NoRunStops : Prop :=
  ∀ (k : Nat) (s : State), s.params.Valid → Sys2Proof.core.run k s = .next (after k s)

/-- R35: every step keeps the invariant. -/
def Obligations.StepKeepsTheInvariant : Prop :=
  ∀ s t : State, Inv s → step s = .next t → Inv t

/-- R35 holds in the reset state, whose registers are the table of R34. -/
def Obligations.ResetStateHasTheInvariant : Prop :=
  Inv State.reset ∧
  registers State.reset =
    { seq := .wait, err := .none, sr := 0, bitcnt := 0, phase := .gap, tick := 1000, fail := false }

/-- The command buffer (R50, R51): every step keeps the canonical form of every buffer the environment will present, listed
or free, and a free input is one the ports can carry. The list form is the model's (log 6). -/
def Obligations.BuffersStayCanonical : Prop :=
  (∀ (p : Params) (n : Nat), p.Valid → (freeInput p n).wf p = true) ∧
  ∀ s t : State, (∀ k, (inputAt s k).cmdData.wf = true) → step s = .next t →
    ∀ k, (inputAt t k).cmdData.wf = true

/-- R22: `err` is written at an accept edge whose decode fails, with the error's own code, cleared by reset, and keeps its
value through every other step; a successful decode does not clear it. -/
def Obligations.ErrIsTheLastDecodeError : Prop :=
  ∀ s t : State, step s = .next t →
    t.err =
      if s.port.rst = true then .none
      else match accepted s with
        | some (.error .wrongLength) => .wrongLength
        | some (.error .invalidDigit) => .invalidDigit
        | some (.ok _) => s.err
        | none => s.err

/-- R27: `fail` is cleared at the load of a render and by reset, set by an underrun abort, and kept through every other
step. -/
def Obligations.FailIsTheLastRendersUnderrun : Prop :=
  ∀ s t : State, step s = .next t →
    t.fail =
      if s.port.rst = true then false
      else if s.seq = .render ∧ (s.phase = .hi ∨ s.phase = .lo) ∧ s.port.underrun = true then true
      else match accepted s with
        | some (.ok _) => false
        | some (.error _) => s.fail
        | none => s.fail

/-- R23: `sr` is written only by the load, the shift at the end of a symbol's low part, the abort and reset. -/
def Obligations.OnlyLoadShiftAbortAndResetWriteSr : Prop :=
  ∀ s t : State, step s = .next t → t.sr ≠ s.sr →
    (t.sr = 0 ∧ (s.port.rst = true ∨
      (s.seq = .render ∧ (s.phase = .hi ∨ s.phase = .lo) ∧ s.port.underrun = true ∧ t.fail = true))) ∨
    (s.phase = .lo ∧ s.tick ≤ 1 ∧ t.sr = s.sr <<< 1 ∧ t.bitcnt = s.bitcnt - 1) ∨
    (∃ c, accepted s = some (.ok c) ∧ t.sr = c.r ++ c.g ++ c.b)

/-- R137 and R170: from a state of R35 the only changes of `phase` and of `seq` without a reset are the two rules' arrows. -/
def Obligations.PhasesAndSequencerFollowTheirArrows : Prop :=
  ∀ s t : State, Inv s → s.port.rst = false → step s = .next t →
    (t.phase = s.phase ∨
      (s.phase = .idle ∧ t.phase = .hi ∧ t.bitcnt = 24) ∨ (s.phase = .hi ∧ t.phase = .lo ∧ s.tick = 1) ∨
      (s.phase = .lo ∧ t.phase = .hi ∧ s.tick = 1 ∧ 1 < s.bitcnt.toNat) ∨
      (s.phase = .lo ∧ t.phase = .gap ∧ s.tick = 1 ∧ s.bitcnt = 1) ∨
      ((s.phase = .hi ∨ s.phase = .lo) ∧ t.phase = .gap ∧ s.port.underrun = true) ∨
      (s.phase = .gap ∧ t.phase = .idle ∧ s.tick = 1)) ∧
    (t.seq = s.seq ∨ (s.seq = .wait ∧ t.seq = .diag) ∨ (s.seq = .wait ∧ t.seq = .render) ∨
      (s.seq = .diag ∧ t.seq = .wait) ∨ (s.seq = .render ∧ t.seq = .wait))

/-- R35 clause 4, second half: the sequencer waits in `GAP` only after a reset, until that gap is over. -/
def Obligations.WaitingInGapComesFromReset : Prop :=
  ∀ s t : State, Inv s → step s = .next t → t.seq = .wait → t.phase = .gap →
    s.port.rst = true ∨ (s.seq = .wait ∧ s.phase = .gap ∧ 1 < s.tick)

/-- R196 and R197: an input that is not looked at has no effect. Two states that agree on registers and parameters and on
`rst`, on `underrun` where a symbol is being sent, on `cmd_valid`, `cmd_len` and the bytes of the read where `cmd_ready` is
1, step to the same registers; bytes past `cmd_len` never matter (R51). -/
def Obligations.InputsNotLookedAtHaveNoEffect : Prop :=
  ∀ s s' t t' : State, registers s = registers s' → s.params = s'.params → s.port.rst = s'.port.rst →
    (s.seq = .render → s.phase = .hi ∨ s.phase = .lo → s.port.underrun = s'.port.underrun) →
    (s.cmdReady = true → s.port.cmdValid = s'.port.cmdValid ∧
      (s.port.cmdValid = true → s.port.cmdLen = s'.port.cmdLen ∧
        ∀ a, a < s.port.cmdLen → s.port.cmdData.read a = s'.port.cmdData.read a)) →
    step s = .next t → step s' = .next t' → registers t = registers t'

/-- R32: the output ports as functions of the present state. -/
def Obligations.OutputPortsAsTabled : Prop :=
  ∀ s : State,
    (s.dout = true ↔ s.phase = .hi) ∧ (s.cmdReady = true ↔ s.seq = .wait ∧ s.phase = .idle) ∧
    (s.diagValid = true ↔ s.seq = .diag) ∧
    (s.diagCode = 0 ↔ s.err = .none) ∧ (s.diagCode = 1 ↔ s.err = .wrongLength) ∧
    (s.diagCode = 2 ↔ s.err = .invalidDigit) ∧
    (s.done = true ↔ s.seq = .render ∧ s.phase = .gap ∧ s.tick = 1) ∧ (s.failPort = true ↔ s.fail = true) ∧
    (s.busy = true ↔ s.phase ≠ .idle)

/-! ## Runs of the block -/

/-- R133, R134, R139, R140: over `TBIT` quiet edges a render at the first tick of a symbol puts that symbol's waveform on
the line, tick for tick, and stands at the next symbol, or at the reset interval after the last. At `bitcnt` 0, outside R35, the
next symbol with `bitcnt` 31 is the model's deduction (log 10); R24 and R140 say that it never wraps. -/
def Obligations.SymbolIsSentTickForTick : Prop :=
  ∀ (s : State) (b : Bool), s.params.Valid → s.seq = .render → s.phase = .hi → s.sr.getLsbD 23 = b →
    s.tick = (if b then s.params.t1h else s.params.t0h) →
    NoReset s 0 s.params.tBit → NoUnderrun s 0 s.params.tBit →
    levels s.params.tBit s = symbol s.params b ∧
    registers (after s.params.tBit s) =
      if s.bitcnt = 1 then
        { seq := .render, err := s.err, sr := s.sr <<< 1, bitcnt := s.bitcnt - 1, phase := .gap,
          tick := s.params.tReset, fail := s.fail }
      else
        { seq := .render, err := s.err, sr := s.sr <<< 1, bitcnt := s.bitcnt - 1, phase := .hi,
          tick := if s.sr.getLsbD 22 then s.params.t1h else s.params.t0h, fail := s.fail }

/-- R146, the refinement of level L1 by level L2: a valid command accepted at the next edge, with no reset at that edge and
neither reset nor underrun over its render, puts exactly `frame_wave` of its Color on `dout`, reports `done` in the last
interval only, with `fail = 0`, takes no other command meanwhile, and ends quiescent with the registers of the rule. -/
def Obligations.AcceptedCommandIsSentWhole : Prop :=
  ∀ (s : State) (buf : List Byte) (c : Color), s.params.Valid → s.cmdReady = true → Presents s 0 buf →
    decodeResult buf = .ok c → NoReset s 0 (1 + s.params.frameTicks) → NoUnderrun s 1 s.params.frameTicks →
    levels s.params.frameTicks (after 1 s) = frameWave s.params c ∧
    (∀ k, k < s.params.frameTicks → ((after (1 + k) s).done = true ↔ k + 1 = s.params.frameTicks) ∧
      (after (1 + k) s).cmdReady = false ∧ (after (1 + k) s).fail = false) ∧
    registers (after (1 + s.params.frameTicks) s) =
      { seq := .wait, err := s.err, sr := 0, bitcnt := 0, phase := .idle, tick := 0, fail := false }

/-- R59 and R60 (the source's scenario 6): two commands, the second presented at the first edge that can take it, give the
two frames in order with one low tick between, the first frame's reset interval complete before the second begins. -/
def Obligations.TwoFramesDoNotInterleave : Prop :=
  ∀ (s : State) (buf buf' : List Byte) (c c' : Color), s.params.Valid → s.cmdReady = true →
    Presents s 0 buf → decodeResult buf = .ok c →
    Presents s (1 + s.params.frameTicks) buf' → decodeResult buf' = .ok c' →
    NoReset s 0 (1 + 2 * s.params.frameTicks) → NoUnderrun s 1 s.params.frameTicks →
    NoUnderrun s (2 + s.params.frameTicks) s.params.frameTicks →
    levels (2 * s.params.frameTicks + 1) (after 1 s) = frameWave s.params c ++ [false] ++ frameWave s.params c'

/-- R64 and R230 (`Hold`): a read presented at any edge of a render and held is taken at the first edge that can take it,
and no sooner; a valid one begins its render there. -/
def Obligations.HeldCommandIsTakenAfterTheRender : Prop :=
  ∀ (s : State) (buf buf' : List Byte) (c c' : Color) (j : Nat), s.params.Valid → s.cmdReady = true →
    Presents s 0 buf → decodeResult buf = .ok c → 1 ≤ j → j ≤ s.params.frameTicks → Presents s j buf' →
    decodeResult buf' = .ok c' → Hold s (1 + s.params.frameTicks) →
    NoReset s 0 (2 + s.params.frameTicks) → NoUnderrun s 1 s.params.frameTicks →
    (∀ k, 1 ≤ k → k ≤ s.params.frameTicks → (after k s).cmdReady = false) ∧
    (after (2 + s.params.frameTicks) s).seq = .render ∧ (after (2 + s.params.frameTicks) s).sr = c'.r ++ c'.g ++ c'.b

/-- R223: after the last edge with `rst = 1` the power-on gap holds the line low for `TRESET` intervals, with `done` 0, the
counter as the rule gives it; then the block is ready, and not before. -/
def Obligations.PowerOnGapThenReady : Prop :=
  ∀ s : State, s.params.Valid → s.port.rst = true → NoReset s 1 s.params.tReset →
    (∀ k, k < s.params.tReset →
      registers (after (1 + k) s) =
        { seq := .wait, err := .none, sr := 0, bitcnt := 0, phase := .gap, tick := s.params.tReset - k, fail := false } ∧
      (after (1 + k) s).dout = false ∧ (after (1 + k) s).done = false ∧ (after (1 + k) s).cmdReady = false) ∧
    registers (after (1 + s.params.tReset) s) =
      { seq := .wait, err := .none, sr := 0, bitcnt := 0, phase := .idle, tick := 0, fail := false } ∧
    (after (1 + s.params.tReset) s).cmdReady = true

/-- R143, R145, R177: after an underrun the line is low for the whole reset interval, whatever `underrun` does meanwhile,
`done` comes in its last interval with `fail = 1`, and the block waits again with the failure still on record. -/
def Obligations.AbortedFrameIsReportedAndTheLoopGoesOn : Prop :=
  ∀ s : State, s.params.Valid → s.seq = .render → (s.phase = .hi ∨ s.phase = .lo) → s.port.underrun = true →
    NoReset s 0 (1 + s.params.tReset) →
    (∀ k, k < s.params.tReset → (after (1 + k) s).dout = false ∧ (after (1 + k) s).fail = true ∧
      ((after (1 + k) s).done = true ↔ k + 1 = s.params.tReset)) ∧
    registers (after (1 + s.params.tReset) s) =
      { seq := .wait, err := s.err, sr := 0, bitcnt := 0, phase := .idle, tick := 0, fail := true }

/-- R173, R175, R195: a bad read accepted at the next edge gives one interval of `diag_valid` with its code and nothing on
the line, and the block is ready again in the second interval. -/
def Obligations.BadReadGivesOneDiagnosticPulse : Prop :=
  ∀ (s : State) (buf : List Byte) (e : DecodeError), s.params.Valid → s.cmdReady = true → Presents s 0 buf →
    buf ≠ [] → decodeResult buf = .error e → NoReset s 0 2 →
    (after 1 s).diagValid = true ∧ (after 1 s).diagCode = (match e with | .wrongLength => 1#2 | .invalidDigit => 2#2) ∧
    (after 1 s).dout = false ∧ (after 1 s).cmdReady = false ∧
    registers (after 2 s) = { registers s with err := match e with | .wrongLength => .wrongLength | .invalidDigit => .invalidDigit } ∧
    (after 2 s).cmdReady = true ∧ (after 2 s).dout = false ∧ (after 2 s).diagValid = false

/-- R180: from every state of R35 with no reset, the block is ready again within `24*TBIT + TRESET` edges. -/
def Obligations.EveryStateReturnsToWaiting : Prop :=
  ∀ s : State, s.params.Valid → Inv s → NoReset s 0 s.params.frameTicks →
    ∃ k, k ≤ s.params.frameTicks ∧ (after k s).cmdReady = true

/-! ## The decoder's wires and the diagnostic text -/

/-- R113: DEC is a function of `cmd_len` and the six bytes of `cmd_data[47:0]` alone; its outputs are `decode` of the presented
read (R100); at an accept edge the step acts on them, and a Color is in `sr` in the interval right after. That its output acts
at no other edge is InputsNotLookedAtHaveNoEffect. -/
def Obligations.DecoderIsCombinational : Prop :=
  (∀ i i' : Input, i.cmdLen = i'.cmdLen → i.cmdData.readBytes 0 6 = i'.cmdData.readBytes 0 6 →
    decOutputs i = decOutputs i') ∧
  (∀ i : Input, decOutputs i =
    match decodeResult (i.cmdData.readBytes 0 i.cmdLen) with
    | .ok c => .ok (c.r ++ c.g ++ c.b)
    | .error e => .error e) ∧
  ∀ s : State, s.params.Valid → s.port.rst = false → s.cmdReady = true → s.port.cmdValid = true → s.port.cmdLen ≠ 0 →
    ∃ t, step s = .next t ∧
      match decOutputs s.port with
      | .ok w => t.seq = .render ∧ t.sr = w ∧ t.phase = .hi ∧ t.err = s.err
      | .error .wrongLength => t.seq = .diag ∧ t.err = .wrongLength ∧ t.sr = s.sr ∧ t.phase = .idle
      | .error .invalidDigit => t.seq = .diag ∧ t.err = .invalidDigit ∧ t.sr = s.sr ∧ t.phase = .idle

/-- The block does not use `DIAG_MSG` (R6, R175): with another text in its parameter set every step is the same. -/
def Obligations.DiagnosticTextHasNoEffect : Prop :=
  ∀ (s t : State) (text : List Byte), step s = .next t →
    step { s with params := { s.params with diagMsg := text } } = .next { t with params := { t.params with diagMsg := text } }

/-! ## The reference receiver on a whole trace -/

/-- The reference receiver of 95_test_vectors.md 2.5, its split at low runs of `TRESET` ticks included, reads from the trace of any
frames with any idle low ticks before each exactly their Colors, in order. The premises keep the split out of a frame (log 15). -/
def Obligations.ReceiverReadsEveryFrameOfATrace : Prop :=
  ∀ (p : Params) (frames : List (Nat × Color)), p.Valid → p.t0l < p.tReset → p.t1l < p.tReset →
    receiveTrace p (frames.flatMap fun f => List.replicate f.1 false ++ frameWave p f.2) = frames.map fun f => f.2
end

