-- ==== Sys2Proof/Laws/Decode.lean ====
section
/-! SUPPORT. The laws of the encodings: characters and their codes, what a read decodes to, the shapes of the line's
elements. -/

namespace Sys2Proof

/-! ## Parameters -/

/-- The constraints of R7, one by one. -/
theorem Params.valid_iff (p : Params) : p.Valid ↔
    (1 ≤ p.t0h ∧ p.t0h < p.t0l ∧ 1 ≤ p.t1l ∧ p.t1l < p.t1h ∧ p.t0h < p.t1h ∧ p.t0h + p.t0l = p.t1h + p.t1l) ∧
    (1 ≤ p.tReset ∧ 50 * p.fClk ≤ 1000000 * p.tReset) ∧
    (p.t0h < 2 ^ p.tickW ∧ p.t0l < 2 ^ p.tickW ∧ p.t1h < 2 ^ p.tickW ∧ p.t1l < 2 ^ p.tickW ∧
      p.tReset < 2 ^ p.tickW) ∧ 7 ≤ p.lmax := by
  simp [Params.Valid, Params.valid, Bool.and_eq_true, decide_eq_true_eq, and_assoc]

theorem Params.default_valid : Params.default.Valid := by decide

/-! ## Characters -/

@[simp] theorem hexChar_code (c : HexChar) : hexChar c.code = some c := by
  cases c with
  | digit d => revert d; decide
  | upper d => revert d; decide
  | lower d => revert d; decide

/-- A byte has one character at most, and it is that character's code. -/
theorem code_of_hexChar {b : Byte} {c : HexChar} (h : hexChar b = some c) : c.code = b := by
  unfold hexChar at h
  split at h
  · obtain rfl := Option.some.inj h
    apply BitVec.eq_of_toNat_eq
    simp only [HexChar.code, BitVec.toNat_ofNat]
    omega
  · split at h
    · obtain rfl := Option.some.inj h
      apply BitVec.eq_of_toNat_eq
      simp only [HexChar.code, BitVec.toNat_ofNat]
      omega
    · split at h
      · obtain rfl := Option.some.inj h
        apply BitVec.eq_of_toNat_eq
        simp only [HexChar.code, BitVec.toNat_ofNat]
        omega
      · cases h

/-- `hexChar` finds a character exactly where the predicate of R72 holds. -/
theorem hexChar_isSome (b : Byte) : (hexChar b).isSome = isHexDigit b := by
  unfold hexChar isHexDigit
  split
  · simp_all
  · split
    · simp_all
    · split <;> simp_all

theorem isHexDigit_of_some {b : Byte} {c : HexChar} (h : hexChar b = some c) : isHexDigit b = true := by
  rw [← hexChar_isSome, h]; rfl

theorem isHexDigit_of_none {b : Byte} (h : hexChar b = none) : isHexDigit b = false := by
  rw [← hexChar_isSome, h]; rfl

@[simp] theorem isHexDigit_code (c : HexChar) : isHexDigit c.code = true := isHexDigit_of_some (hexChar_code c)

@[simp] theorem hexval_code (c : HexChar) : hexval c.code = some c.value := by simp [hexval]

/-! ## Reads -/

/-- A read of six characters is `SETRGB` of them. -/
@[simp] theorem decodeRead_codes (c0 c1 c2 c3 c4 c5 : HexChar) :
    decodeRead [c0.code, c1.code, c2.code, c3.code, c4.code, c5.code] = .setrgb c0 c1 c2 c3 c4 c5 := by
  simp [decodeRead]

/-- A read of another length is `ILLEGAL.WRONGLENGTH`, whatever its bytes. -/
theorem decodeRead_length {buf : List Byte} (h : buf.length ≠ 6) :
    decodeRead buf = .illegalWronglength buf.length := by
  unfold decodeRead
  split
  · simp at h
  · rfl

/-- `decode` of another length is `WrongLength`, whatever its bytes (R101). -/
theorem decodeResult_length {buf : List Byte} (h : buf.length ≠ 6) : decodeResult buf = .error .wrongLength := by
  unfold decodeResult
  split
  · simp at h
  · rfl

/-- A list of six bytes, written out. -/
theorem six_bytes {buf : List Byte} (h : buf.length = 6) :
    ∃ b0 b1 b2 b3 b4 b5, buf = [b0, b1, b2, b3, b4, b5] := by
  match buf, h with
  | [b0, b1, b2, b3, b4, b5], _ => exact ⟨b0, b1, b2, b3, b4, b5, rfl⟩

/-- What a read of six bytes decodes to: the command its characters spell, or `ILLEGAL.INVALIDDIGIT`. -/
theorem decodeRead_six (b0 b1 b2 b3 b4 b5 : Byte) :
    (∃ c0 c1 c2 c3 c4 c5, b0 = c0.code ∧ b1 = c1.code ∧ b2 = c2.code ∧ b3 = c3.code ∧ b4 = c4.code ∧ b5 = c5.code ∧
      decodeRead [b0, b1, b2, b3, b4, b5] = .setrgb c0 c1 c2 c3 c4 c5) ∨
    ((isHexDigit b0 && isHexDigit b1 && isHexDigit b2 && isHexDigit b3 && isHexDigit b4 && isHexDigit b5) = false ∧
      decodeRead [b0, b1, b2, b3, b4, b5] = .illegalInvaliddigit b0 b1 b2 b3 b4 b5) := by
  rcases h0 : hexChar b0 with _ | c0
  · exact .inr ⟨by simp [isHexDigit_of_none h0], by simp [decodeRead, h0]⟩
  rcases h1 : hexChar b1 with _ | c1
  · exact .inr ⟨by simp [isHexDigit_of_none h1], by simp [decodeRead, h1]⟩
  rcases h2 : hexChar b2 with _ | c2
  · exact .inr ⟨by simp [isHexDigit_of_none h2], by simp [decodeRead, h2]⟩
  rcases h3 : hexChar b3 with _ | c3
  · exact .inr ⟨by simp [isHexDigit_of_none h3], by simp [decodeRead, h3]⟩
  rcases h4 : hexChar b4 with _ | c4
  · exact .inr ⟨by simp [isHexDigit_of_none h4], by simp [decodeRead, h4]⟩
  rcases h5 : hexChar b5 with _ | c5
  · exact .inr ⟨by simp [isHexDigit_of_none h5], by simp [decodeRead, h5]⟩
  exact .inl ⟨c0, c1, c2, c3, c4, c5, (code_of_hexChar h0).symm, (code_of_hexChar h1).symm, (code_of_hexChar h2).symm,
    (code_of_hexChar h3).symm, (code_of_hexChar h4).symm, (code_of_hexChar h5).symm,
    by simp [decodeRead, h0, h1, h2, h3, h4, h5]⟩

/-- The decoder gives only well-formed instructions for reads. -/
theorem decodeRead_wf (buf : List Byte) : (decodeRead buf).wf = true := by
  by_cases h : buf.length = 6
  · obtain ⟨b0, b1, b2, b3, b4, b5, rfl⟩ := six_bytes h
    rcases decodeRead_six b0 b1 b2 b3 b4 b5 with ⟨c0, c1, c2, c3, c4, c5, -, -, -, -, -, -, e⟩ | ⟨hb, e⟩
    · rw [e]; rfl
    · rw [e]; simp only [Instr.wf, hb]; rfl
  · rw [decodeRead_length h]
    simpa [Instr.wf, cmdLength] using h

/-! ## The line's elements -/

@[simp] theorem channelBits_length (v : Byte) : (channelBits v).length = 8 := rfl

@[simp] theorem frameBits_length (c : Color) : (frameBits c).length = 24 := rfl

@[simp] theorem highTicks_true (p : Params) : highTicks p true = p.t1h := rfl
@[simp] theorem highTicks_false (p : Params) : highTicks p false = p.t0h := rfl
@[simp] theorem lowTicks_true (p : Params) : lowTicks p true = p.t1l := rfl
@[simp] theorem lowTicks_false (p : Params) : lowTicks p false = p.t0l := rfl

/-- Both symbols last `TBIT` ticks (R7, R76). -/
theorem highTicks_add_lowTicks {p : Params} (h : p.Valid) (b : Bool) : highTicks p b + lowTicks p b = p.tBit := by
  obtain ⟨⟨-, -, -, -, -, h⟩, -⟩ := p.valid_iff.1 h
  cases b <;> simp [Params.tBit, h]

theorem highTicks_pos {p : Params} (h : p.Valid) (b : Bool) : 1 ≤ highTicks p b := by
  obtain ⟨⟨h0, -, -, -, h1, -⟩, -⟩ := p.valid_iff.1 h
  cases b <;> simp <;> omega

theorem lowTicks_pos {p : Params} (h : p.Valid) (b : Bool) : 1 ≤ lowTicks p b := by
  obtain ⟨⟨h0, h1, h2, -⟩, -⟩ := p.valid_iff.1 h
  cases b <;> simp <;> omega

theorem symbol_length {p : Params} (h : p.Valid) (b : Bool) : (symbol p b).length = p.tBit := by
  simp [symbol, highTicks_add_lowTicks h]

theorem symbols_length {p : Params} (h : p.Valid) (bits : List Bool) :
    (bits.flatMap (symbol p)).length = bits.length * p.tBit := by
  induction bits with
  | nil => simp
  | cons b bits ih =>
    rw [List.flatMap_cons, List.length_append, ih, symbol_length h, List.length_cons, Nat.succ_mul, Nat.add_comm]

/-- A frame lasts `24*TBIT + TRESET` ticks (R77). -/
theorem frameWave_length {p : Params} (h : p.Valid) (c : Color) : (frameWave p c).length = p.frameTicks := by
  rw [frameWave, List.length_append, symbols_length h, frameBits_length, resetWave, List.length_replicate]
  rfl

/-- A run of 1s at the start of a list lengthens the pulse that reaches it. -/
theorem pulseWidths_high (k n : Nat) (ls : List Level) :
    pulseWidths n (List.replicate k true ++ ls) = pulseWidths (n + k) ls := by
  induction k generalizing n with
  | zero => simp
  | succ k ih =>
    rw [List.replicate_succ, List.cons_append, pulseWidths, ih]
    congr 1
    omega

/-- A run of 0s with no pulse open adds no pulse. -/
theorem pulseWidths_low (k : Nat) (ls : List Level) :
    pulseWidths 0 (List.replicate k false ++ ls) = pulseWidths 0 ls := by
  induction k with
  | zero => simp
  | succ k ih => rw [List.replicate_succ, List.cons_append, pulseWidths, ih]

/-- Every width the transmitter counts fits the register `tick` (R7, R26). -/
theorem ticks_lt {p : Params} (h : p.Valid) (b : Bool) :
    highTicks p b < 2 ^ p.tickW ∧ lowTicks p b < 2 ^ p.tickW ∧ p.tReset < 2 ^ p.tickW := by
  obtain ⟨-, -, ⟨h0, h1, h2, h3, h4⟩, -⟩ := p.valid_iff.1 h
  cases b <;> simp [h0, h1, h2, h3, h4]

/-- A symbol is one pulse of width `TH(b)`. -/
theorem pulseWidths_symbol {p : Params} (h : p.Valid) (b : Bool) (ls : List Level) :
    pulseWidths 0 (symbol p b ++ ls) = highTicks p b :: pulseWidths 0 ls := by
  obtain ⟨n, hn⟩ : ∃ n, highTicks p b = n + 1 := ⟨highTicks p b - 1, by have := highTicks_pos h b; omega⟩
  obtain ⟨m, hm⟩ : ∃ m, lowTicks p b = m + 1 := ⟨lowTicks p b - 1, by have := lowTicks_pos h b; omega⟩
  rw [symbol, List.append_assoc, pulseWidths_high, hn, hm, List.replicate_succ, List.cons_append, Nat.zero_add,
    pulseWidths, pulseWidths_low]

/-- The width of a pulse tells its bit (R7: `T0H < T1H`). -/
theorem pulseBit_highTicks {p : Params} (h : p.Valid) (b : Bool) : pulseBit p (highTicks p b) = some b := by
  obtain ⟨⟨-, -, -, -, h, -⟩, -⟩ := p.valid_iff.1 h
  cases b
  · simp [pulseBit, Nat.ne_of_lt h]
  · simp [pulseBit]

end Sys2Proof
end

