-- ==== Sys2Proof/Laws/Memory.lean ====
section
/-! SUPPORT. The command buffer's laws: a read after a write, the canonical form kept by every operation, equal buffers are
equal lists. -/

namespace Sys2Proof.Machine

@[simp] theorem Memory.read_nil (a : Nat) : Memory.read [] a = unlistedByte := rfl

/-- A list whose indices start at `lo` says nothing of an index below it. -/
theorem Memory.read_below {m : Memory} {lo a : Nat} (h : Memory.wfFrom lo m = true) (ha : a < lo) :
    m.read a = unlistedByte := by
  induction m generalizing lo with
  | nil => rfl
  | cons c m ih =>
    obtain ⟨k, v⟩ := c
    simp only [Memory.wfFrom, Bool.and_eq_true, decide_eq_true_eq] at h
    rw [Memory.read, if_neg (by omega)]
    exact ih h.2 (by omega)

theorem Memory.wfFrom_mono {m : Memory} {lo lo' : Nat} (h : Memory.wfFrom lo' m = true) (hl : lo ≤ lo') :
    Memory.wfFrom lo m = true := by
  cases m with
  | nil => rfl
  | cons c m =>
    simp only [Memory.wfFrom, Bool.and_eq_true, decide_eq_true_eq] at h ⊢
    exact ⟨⟨by omega, h.1.2⟩, h.2⟩

/-- A write keeps the canonical form. -/
theorem Memory.wfFrom_write {m : Memory} {lo a : Nat} (b : Byte) (h : Memory.wfFrom lo m = true) (ha : lo ≤ a) :
    Memory.wfFrom lo (m.write a b) = true := by
  induction m generalizing lo with
  | nil =>
    by_cases hb : b = unlistedByte
    · simp [Memory.write, hb, Memory.wfFrom]
    · simp [Memory.write, hb, Memory.wfFrom, ha]
  | cons c m ih =>
    obtain ⟨k, v⟩ := c
    have h' := h
    simp only [Memory.wfFrom, Bool.and_eq_true, decide_eq_true_eq] at h'
    obtain ⟨⟨hk, hv⟩, hm⟩ := h'
    by_cases hlt : a < k
    · by_cases hb : b = unlistedByte
      · simpa [Memory.write, hlt, hb] using h
      · simp only [Memory.write, if_pos hlt, if_neg hb, Memory.wfFrom, Bool.and_eq_true, decide_eq_true_eq]
        exact ⟨⟨ha, hb⟩, ⟨by omega, hv⟩, hm⟩
    · by_cases heq : a = k
      · subst heq
        by_cases hb : b = unlistedByte
        · simpa [Memory.write, hb] using Memory.wfFrom_mono hm (by omega)
        · simp only [Memory.write, if_neg hlt, if_neg hb, if_true, Memory.wfFrom, Bool.and_eq_true, decide_eq_true_eq]
          exact ⟨⟨ha, hb⟩, hm⟩
      · simp only [Memory.write, if_neg hlt, if_neg heq, Memory.wfFrom, Bool.and_eq_true, decide_eq_true_eq]
        exact ⟨⟨hk, hv⟩, ih hm (by omega)⟩

theorem Memory.wf_write {m : Memory} (a : Nat) (b : Byte) (h : m.wf = true) : (m.write a b).wf = true :=
  Memory.wfFrom_write b h (Nat.zero_le a)

theorem Memory.wf_ofBytesAt (bs : List Byte) (a : Nat) : (Memory.ofBytesAt a bs).wf = true := by
  induction bs generalizing a with
  | nil => rfl
  | cons b bs ih => exact Memory.wf_write a b (ih (a + 1))

theorem Memory.wf_ofBytes (bs : List Byte) : (Memory.ofBytes bs).wf = true := Memory.wf_ofBytesAt bs 0

/-- A read after a write: the byte written at its index, the byte before elsewhere. -/
theorem Memory.read_write {m : Memory} {lo : Nat} (a x : Nat) (b : Byte) (h : Memory.wfFrom lo m = true) :
    (m.write a b).read x = if x = a then b else m.read x := by
  induction m generalizing lo with
  | nil =>
    by_cases hb : b = unlistedByte
    · simp [Memory.write, hb]
    · simp [Memory.write, hb, Memory.read, eq_comm]
  | cons c m ih =>
    obtain ⟨k, v⟩ := c
    simp only [Memory.wfFrom, Bool.and_eq_true, decide_eq_true_eq] at h
    obtain ⟨⟨hk, hv⟩, hm⟩ := h
    by_cases hlt : a < k
    · by_cases hb : b = unlistedByte
      · by_cases hba : x = a
        · subst hba
          rw [Memory.write, if_pos hlt, if_pos hb, if_pos rfl, hb, Memory.read, if_neg (by omega)]
          exact Memory.read_below hm (by omega)
        · simp [Memory.write, hlt, hb, hba]
      · rw [Memory.write, if_pos hlt, if_neg hb, Memory.read]
        by_cases hba : x = a
        · simp [hba]
        · rw [if_neg (fun e => hba e.symm), if_neg hba]
    · by_cases heq : a = k
      · subst heq
        by_cases hb : b = unlistedByte
        · rw [Memory.write, if_neg hlt, if_pos rfl, if_pos hb]
          by_cases hba : x = a
          · rw [if_pos hba, hb, hba]
            exact Memory.read_below hm (by omega)
          · rw [if_neg hba, Memory.read, if_neg (fun e => hba e.symm)]
        · rw [Memory.write, if_neg hlt, if_pos rfl, if_neg hb, Memory.read, Memory.read]
          by_cases hba : x = a
          · simp [hba]
          · have hab : ¬a = x := fun e => hba e.symm
            simp [hba, hab]
      · rw [Memory.write, if_neg hlt, if_neg heq, Memory.read, Memory.read, ih hm]
        by_cases hkb : k = x
        · simp only [if_pos hkb]
          rw [if_neg (by omega)]
        · simp only [if_neg hkb]

/-- The bytes of a read presented from index `a` on are found where they were put. -/
theorem Memory.read_ofBytesAt (bs : List Byte) (a k : Nat) :
    (Memory.ofBytesAt a bs).read k = if a ≤ k then bs.getD (k - a) unlistedByte else unlistedByte := by
  induction bs generalizing a with
  | nil => simp [Memory.ofBytesAt]
  | cons b bs ih =>
    rw [Memory.ofBytesAt, Memory.read_write a k b (Memory.wf_ofBytesAt bs (a + 1)), ih]
    by_cases h : k = a
    · simp [h]
    · rw [if_neg h]
      by_cases hk : a + 1 ≤ k
      · have e : k - a = (k - (a + 1)) + 1 := by omega
        rw [if_pos hk, if_pos (by omega), e, List.getD_cons_succ]
      · rw [if_neg hk, if_neg (by omega)]

theorem Memory.read_ofBytes (bs : List Byte) (k : Nat) :
    (Memory.ofBytes bs).read k = bs.getD k unlistedByte := by
  simp [Memory.ofBytes, Memory.read_ofBytesAt]

/-- `MemRead` of a whole presented read gives its bytes. -/
theorem Memory.readBytes_ofBytes (bs : List Byte) : (Memory.ofBytes bs).readBytes 0 bs.length = bs := by
  apply List.ext_getElem
  · simp [Memory.readBytes]
  · intro n h _
    simp only [Memory.readBytes, List.length_map, List.length_range] at h
    simp [Memory.readBytes, Memory.read_ofBytes, h]

theorem Memory.eq_of_read_from {m m' : Memory} {lo : Nat} (h : Memory.wfFrom lo m = true)
    (h' : Memory.wfFrom lo m' = true) (he : ∀ a, m.read a = m'.read a) : m = m' := by
  induction m generalizing m' lo with
  | nil =>
    cases m' with
    | nil => rfl
    | cons c m' =>
      obtain ⟨k, v⟩ := c
      simp only [Memory.wfFrom, Bool.and_eq_true, decide_eq_true_eq] at h'
      have := he k
      simp [Memory.read] at this
      exact absurd this.symm h'.1.2
  | cons c m ih =>
    obtain ⟨k, v⟩ := c
    simp only [Memory.wfFrom, Bool.and_eq_true, decide_eq_true_eq] at h
    cases m' with
    | nil =>
      have := he k
      simp [Memory.read] at this
      exact absurd this h.1.2
    | cons c' m' =>
      obtain ⟨k', v'⟩ := c'
      simp only [Memory.wfFrom, Bool.and_eq_true, decide_eq_true_eq] at h'
      have hk : k = k' := by
        rcases Nat.lt_trichotomy k k' with hlt | heq | hgt
        · have := he k
          rw [Memory.read, if_pos rfl, Memory.read, if_neg (by omega),
            Memory.read_below h'.2 (by omega)] at this
          exact absurd this h.1.2
        · exact heq
        · have := he k'
          rw [Memory.read, if_neg (by omega), Memory.read, if_pos rfl,
            Memory.read_below h.2 (by omega)] at this
          exact absurd this.symm h'.1.2
      subst hk
      have hv : v = v' := by simpa [Memory.read] using he k
      subst hv
      congr 1
      refine ih h.2 h'.2 fun a => ?_
      by_cases ha : k = a
      · subst ha
        rw [Memory.read_below h.2 (by omega), Memory.read_below h'.2 (by omega)]
      · simpa [Memory.read, ha] using he a

/-- Canonical buffers that read alike at every index are the same list. -/
theorem Memory.eq_of_read {m m' : Memory} (h : m.wf = true) (h' : m'.wf = true)
    (he : ∀ a, m.read a = m'.read a) : m = m' := Memory.eq_of_read_from h h' he

/-- What `memRead` can answer. -/
theorem memRead_cases (p : Params) (i : Input) (addr n : Nat) :
    (addr + n ≤ i.cmdLen ∧ addr + n ≤ p.lmax ∧ memRead p i addr n = .ok (i.cmdData.readBytes addr n)) ∨
    ((i.cmdLen < addr + n ∨ p.lmax < addr + n) ∧ memRead p i addr n = .error (.outsideBuffer addr n)) := by
  by_cases h : addr + n ≤ i.cmdLen ∧ addr + n ≤ p.lmax
  · exact .inl ⟨h.1, h.2, if_pos h⟩
  · exact .inr ⟨by omega, if_neg h⟩

end Sys2Proof.Machine
end

