-- ==== Sys2Proof/Laws/State.lean ====
section
/-! SUPPORT. One lemma per field per named update of State: later proofs read fields through these and unfold no update. -/

namespace Sys2Proof.Machine

@[simp] theorem flagErr_seq (s : State) (e : DecodeError) : (s.flagErr e).seq = s.seq := rfl
@[simp] theorem flagErr_err (s : State) (e : DecodeError) : (s.flagErr e).err = errOf e := rfl
@[simp] theorem flagErr_sr (s : State) (e : DecodeError) : (s.flagErr e).sr = s.sr := rfl
@[simp] theorem flagErr_bitcnt (s : State) (e : DecodeError) : (s.flagErr e).bitcnt = s.bitcnt := rfl
@[simp] theorem flagErr_phase (s : State) (e : DecodeError) : (s.flagErr e).phase = s.phase := rfl
@[simp] theorem flagErr_tick (s : State) (e : DecodeError) : (s.flagErr e).tick = s.tick := rfl
@[simp] theorem flagErr_fail (s : State) (e : DecodeError) : (s.flagErr e).fail = s.fail := rfl
@[simp] theorem flagErr_params (s : State) (e : DecodeError) : (s.flagErr e).params = s.params := rfl
@[simp] theorem flagErr_inputs (s : State) (e : DecodeError) : (s.flagErr e).inputs = s.inputs := rfl
@[simp] theorem flagErr_edge (s : State) (e : DecodeError) : (s.flagErr e).edge = s.edge := rfl

@[simp] theorem flagFail_seq (s : State) : (s.flagFail).seq = s.seq := rfl
@[simp] theorem flagFail_err (s : State) : (s.flagFail).err = s.err := rfl
@[simp] theorem flagFail_sr (s : State) : (s.flagFail).sr = s.sr := rfl
@[simp] theorem flagFail_bitcnt (s : State) : (s.flagFail).bitcnt = s.bitcnt := rfl
@[simp] theorem flagFail_phase (s : State) : (s.flagFail).phase = s.phase := rfl
@[simp] theorem flagFail_tick (s : State) : (s.flagFail).tick = s.tick := rfl
@[simp] theorem flagFail_fail (s : State) : (s.flagFail).fail = true := rfl
@[simp] theorem flagFail_params (s : State) : (s.flagFail).params = s.params := rfl
@[simp] theorem flagFail_inputs (s : State) : (s.flagFail).inputs = s.inputs := rfl
@[simp] theorem flagFail_edge (s : State) : (s.flagFail).edge = s.edge := rfl

@[simp] theorem clearFail_seq (s : State) : (s.clearFail).seq = s.seq := rfl
@[simp] theorem clearFail_err (s : State) : (s.clearFail).err = s.err := rfl
@[simp] theorem clearFail_sr (s : State) : (s.clearFail).sr = s.sr := rfl
@[simp] theorem clearFail_bitcnt (s : State) : (s.clearFail).bitcnt = s.bitcnt := rfl
@[simp] theorem clearFail_phase (s : State) : (s.clearFail).phase = s.phase := rfl
@[simp] theorem clearFail_tick (s : State) : (s.clearFail).tick = s.tick := rfl
@[simp] theorem clearFail_fail (s : State) : (s.clearFail).fail = false := rfl
@[simp] theorem clearFail_params (s : State) : (s.clearFail).params = s.params := rfl
@[simp] theorem clearFail_inputs (s : State) : (s.clearFail).inputs = s.inputs := rfl
@[simp] theorem clearFail_edge (s : State) : (s.clearFail).edge = s.edge := rfl

@[simp] theorem advance_seq (s : State) : (s.advance).seq = s.seq := rfl
@[simp] theorem advance_err (s : State) : (s.advance).err = s.err := rfl
@[simp] theorem advance_sr (s : State) : (s.advance).sr = s.sr := rfl
@[simp] theorem advance_bitcnt (s : State) : (s.advance).bitcnt = s.bitcnt := rfl
@[simp] theorem advance_phase (s : State) : (s.advance).phase = s.phase := rfl
@[simp] theorem advance_tick (s : State) : (s.advance).tick = s.tick := rfl
@[simp] theorem advance_fail (s : State) : (s.advance).fail = s.fail := rfl
@[simp] theorem advance_params (s : State) : (s.advance).params = s.params := rfl
@[simp] theorem advance_inputs (s : State) : (s.advance).inputs = s.inputs.tail := rfl
@[simp] theorem advance_edge (s : State) : (s.advance).edge = s.edge + 1 := rfl

@[simp] theorem countDown_seq (s : State) : (s.countDown).seq = s.seq := rfl
@[simp] theorem countDown_err (s : State) : (s.countDown).err = s.err := rfl
@[simp] theorem countDown_sr (s : State) : (s.countDown).sr = s.sr := rfl
@[simp] theorem countDown_bitcnt (s : State) : (s.countDown).bitcnt = s.bitcnt := rfl
@[simp] theorem countDown_phase (s : State) : (s.countDown).phase = s.phase := rfl
@[simp] theorem countDown_tick (s : State) : (s.countDown).tick = s.tick - 1 := rfl
@[simp] theorem countDown_fail (s : State) : (s.countDown).fail = s.fail := rfl
@[simp] theorem countDown_params (s : State) : (s.countDown).params = s.params := rfl
@[simp] theorem countDown_inputs (s : State) : (s.countDown).inputs = s.inputs := rfl
@[simp] theorem countDown_edge (s : State) : (s.countDown).edge = s.edge := rfl

@[simp] theorem beginHigh_seq (s : State) (b : Bool) : (s.beginHigh b).seq = s.seq := rfl
@[simp] theorem beginHigh_err (s : State) (b : Bool) : (s.beginHigh b).err = s.err := rfl
@[simp] theorem beginHigh_sr (s : State) (b : Bool) : (s.beginHigh b).sr = s.sr := rfl
@[simp] theorem beginHigh_bitcnt (s : State) (b : Bool) : (s.beginHigh b).bitcnt = s.bitcnt := rfl
@[simp] theorem beginHigh_phase (s : State) (b : Bool) : (s.beginHigh b).phase = .hi := rfl
@[simp] theorem beginHigh_tick (s : State) (b : Bool) : (s.beginHigh b).tick = highTicks s.params b := rfl
@[simp] theorem beginHigh_fail (s : State) (b : Bool) : (s.beginHigh b).fail = s.fail := rfl
@[simp] theorem beginHigh_params (s : State) (b : Bool) : (s.beginHigh b).params = s.params := rfl
@[simp] theorem beginHigh_inputs (s : State) (b : Bool) : (s.beginHigh b).inputs = s.inputs := rfl
@[simp] theorem beginHigh_edge (s : State) (b : Bool) : (s.beginHigh b).edge = s.edge := rfl

@[simp] theorem beginLow_seq (s : State) (b : Bool) : (s.beginLow b).seq = s.seq := rfl
@[simp] theorem beginLow_err (s : State) (b : Bool) : (s.beginLow b).err = s.err := rfl
@[simp] theorem beginLow_sr (s : State) (b : Bool) : (s.beginLow b).sr = s.sr := rfl
@[simp] theorem beginLow_bitcnt (s : State) (b : Bool) : (s.beginLow b).bitcnt = s.bitcnt := rfl
@[simp] theorem beginLow_phase (s : State) (b : Bool) : (s.beginLow b).phase = .lo := rfl
@[simp] theorem beginLow_tick (s : State) (b : Bool) : (s.beginLow b).tick = lowTicks s.params b := rfl
@[simp] theorem beginLow_fail (s : State) (b : Bool) : (s.beginLow b).fail = s.fail := rfl
@[simp] theorem beginLow_params (s : State) (b : Bool) : (s.beginLow b).params = s.params := rfl
@[simp] theorem beginLow_inputs (s : State) (b : Bool) : (s.beginLow b).inputs = s.inputs := rfl
@[simp] theorem beginLow_edge (s : State) (b : Bool) : (s.beginLow b).edge = s.edge := rfl

@[simp] theorem beginGap_seq (s : State) : (s.beginGap).seq = s.seq := rfl
@[simp] theorem beginGap_err (s : State) : (s.beginGap).err = s.err := rfl
@[simp] theorem beginGap_sr (s : State) : (s.beginGap).sr = s.sr := rfl
@[simp] theorem beginGap_bitcnt (s : State) : (s.beginGap).bitcnt = s.bitcnt := rfl
@[simp] theorem beginGap_phase (s : State) : (s.beginGap).phase = .gap := rfl
@[simp] theorem beginGap_tick (s : State) : (s.beginGap).tick = s.params.tReset := rfl
@[simp] theorem beginGap_fail (s : State) : (s.beginGap).fail = s.fail := rfl
@[simp] theorem beginGap_params (s : State) : (s.beginGap).params = s.params := rfl
@[simp] theorem beginGap_inputs (s : State) : (s.beginGap).inputs = s.inputs := rfl
@[simp] theorem beginGap_edge (s : State) : (s.beginGap).edge = s.edge := rfl

@[simp] theorem beginIdle_seq (s : State) : (s.beginIdle).seq = s.seq := rfl
@[simp] theorem beginIdle_err (s : State) : (s.beginIdle).err = s.err := rfl
@[simp] theorem beginIdle_sr (s : State) : (s.beginIdle).sr = s.sr := rfl
@[simp] theorem beginIdle_bitcnt (s : State) : (s.beginIdle).bitcnt = s.bitcnt := rfl
@[simp] theorem beginIdle_phase (s : State) : (s.beginIdle).phase = .idle := rfl
@[simp] theorem beginIdle_tick (s : State) : (s.beginIdle).tick = 0 := rfl
@[simp] theorem beginIdle_fail (s : State) : (s.beginIdle).fail = s.fail := rfl
@[simp] theorem beginIdle_params (s : State) : (s.beginIdle).params = s.params := rfl
@[simp] theorem beginIdle_inputs (s : State) : (s.beginIdle).inputs = s.inputs := rfl
@[simp] theorem beginIdle_edge (s : State) : (s.beginIdle).edge = s.edge := rfl

@[simp] theorem shiftOut_seq (s : State) : (s.shiftOut).seq = s.seq := rfl
@[simp] theorem shiftOut_err (s : State) : (s.shiftOut).err = s.err := rfl
@[simp] theorem shiftOut_sr (s : State) : (s.shiftOut).sr = s.sr <<< 1 := rfl
@[simp] theorem shiftOut_bitcnt (s : State) : (s.shiftOut).bitcnt = s.bitcnt - 1 := rfl
@[simp] theorem shiftOut_phase (s : State) : (s.shiftOut).phase = s.phase := rfl
@[simp] theorem shiftOut_tick (s : State) : (s.shiftOut).tick = s.tick := rfl
@[simp] theorem shiftOut_fail (s : State) : (s.shiftOut).fail = s.fail := rfl
@[simp] theorem shiftOut_params (s : State) : (s.shiftOut).params = s.params := rfl
@[simp] theorem shiftOut_inputs (s : State) : (s.shiftOut).inputs = s.inputs := rfl
@[simp] theorem shiftOut_edge (s : State) : (s.shiftOut).edge = s.edge := rfl

@[simp] theorem setFrame_seq (s : State) (w : Frame) (n : BitVec 5) : (s.setFrame w n).seq = s.seq := rfl
@[simp] theorem setFrame_err (s : State) (w : Frame) (n : BitVec 5) : (s.setFrame w n).err = s.err := rfl
@[simp] theorem setFrame_sr (s : State) (w : Frame) (n : BitVec 5) : (s.setFrame w n).sr = w := rfl
@[simp] theorem setFrame_bitcnt (s : State) (w : Frame) (n : BitVec 5) : (s.setFrame w n).bitcnt = n := rfl
@[simp] theorem setFrame_phase (s : State) (w : Frame) (n : BitVec 5) : (s.setFrame w n).phase = s.phase := rfl
@[simp] theorem setFrame_tick (s : State) (w : Frame) (n : BitVec 5) : (s.setFrame w n).tick = s.tick := rfl
@[simp] theorem setFrame_fail (s : State) (w : Frame) (n : BitVec 5) : (s.setFrame w n).fail = s.fail := rfl
@[simp] theorem setFrame_params (s : State) (w : Frame) (n : BitVec 5) : (s.setFrame w n).params = s.params := rfl
@[simp] theorem setFrame_inputs (s : State) (w : Frame) (n : BitVec 5) : (s.setFrame w n).inputs = s.inputs := rfl
@[simp] theorem setFrame_edge (s : State) (w : Frame) (n : BitVec 5) : (s.setFrame w n).edge = s.edge := rfl

@[simp] theorem setSeq_seq (s : State) (q : Seq) : (s.setSeq q).seq = q := rfl
@[simp] theorem setSeq_err (s : State) (q : Seq) : (s.setSeq q).err = s.err := rfl
@[simp] theorem setSeq_sr (s : State) (q : Seq) : (s.setSeq q).sr = s.sr := rfl
@[simp] theorem setSeq_bitcnt (s : State) (q : Seq) : (s.setSeq q).bitcnt = s.bitcnt := rfl
@[simp] theorem setSeq_phase (s : State) (q : Seq) : (s.setSeq q).phase = s.phase := rfl
@[simp] theorem setSeq_tick (s : State) (q : Seq) : (s.setSeq q).tick = s.tick := rfl
@[simp] theorem setSeq_fail (s : State) (q : Seq) : (s.setSeq q).fail = s.fail := rfl
@[simp] theorem setSeq_params (s : State) (q : Seq) : (s.setSeq q).params = s.params := rfl
@[simp] theorem setSeq_inputs (s : State) (q : Seq) : (s.setSeq q).inputs = s.inputs := rfl
@[simp] theorem setSeq_edge (s : State) (q : Seq) : (s.setSeq q).edge = s.edge := rfl

@[simp] theorem returnToWait_seq (s : State) : (returnToWait s).seq = .wait := rfl
@[simp] theorem returnToWait_err (s : State) : (returnToWait s).err = s.err := rfl
@[simp] theorem returnToWait_sr (s : State) : (returnToWait s).sr = s.sr := rfl
@[simp] theorem returnToWait_bitcnt (s : State) : (returnToWait s).bitcnt = s.bitcnt := rfl
@[simp] theorem returnToWait_phase (s : State) : (returnToWait s).phase = s.phase := rfl
@[simp] theorem returnToWait_tick (s : State) : (returnToWait s).tick = s.tick := rfl
@[simp] theorem returnToWait_fail (s : State) : (returnToWait s).fail = s.fail := rfl
@[simp] theorem returnToWait_params (s : State) : (returnToWait s).params = s.params := rfl
@[simp] theorem returnToWait_inputs (s : State) : (returnToWait s).inputs = s.inputs := rfl
@[simp] theorem returnToWait_edge (s : State) : (returnToWait s).edge = s.edge := rfl

@[simp] theorem raise_decode_seq (s : State) (e : DecodeError) : (raise (.decode e) s).seq = .diag := rfl
@[simp] theorem raise_decode_err (s : State) (e : DecodeError) : (raise (.decode e) s).err = errOf e := rfl
@[simp] theorem raise_decode_sr (s : State) (e : DecodeError) : (raise (.decode e) s).sr = s.sr := rfl
@[simp] theorem raise_decode_bitcnt (s : State) (e : DecodeError) : (raise (.decode e) s).bitcnt = s.bitcnt := rfl
@[simp] theorem raise_decode_phase (s : State) (e : DecodeError) : (raise (.decode e) s).phase = s.phase := rfl
@[simp] theorem raise_decode_tick (s : State) (e : DecodeError) : (raise (.decode e) s).tick = s.tick := rfl
@[simp] theorem raise_decode_fail (s : State) (e : DecodeError) : (raise (.decode e) s).fail = s.fail := rfl
@[simp] theorem raise_decode_params (s : State) (e : DecodeError) : (raise (.decode e) s).params = s.params := rfl
@[simp] theorem raise_decode_inputs (s : State) (e : DecodeError) : (raise (.decode e) s).inputs = s.inputs := rfl
@[simp] theorem raise_decode_edge (s : State) (e : DecodeError) : (raise (.decode e) s).edge = s.edge := rfl

@[simp] theorem raise_transmission_seq (s : State) : (raise .transmissionFailure s).seq = s.seq := rfl
@[simp] theorem raise_transmission_err (s : State) : (raise .transmissionFailure s).err = s.err := rfl
@[simp] theorem raise_transmission_sr (s : State) : (raise .transmissionFailure s).sr = 0 := rfl
@[simp] theorem raise_transmission_bitcnt (s : State) : (raise .transmissionFailure s).bitcnt = 0 := rfl
@[simp] theorem raise_transmission_phase (s : State) : (raise .transmissionFailure s).phase = .gap := rfl
@[simp] theorem raise_transmission_tick (s : State) : (raise .transmissionFailure s).tick = s.params.tReset := rfl
@[simp] theorem raise_transmission_fail (s : State) : (raise .transmissionFailure s).fail = true := rfl
@[simp] theorem raise_transmission_params (s : State) : (raise .transmissionFailure s).params = s.params := rfl
@[simp] theorem raise_transmission_inputs (s : State) : (raise .transmissionFailure s).inputs = s.inputs := rfl
@[simp] theorem raise_transmission_edge (s : State) : (raise .transmissionFailure s).edge = s.edge := rfl

@[simp] theorem resetRegisters_seq (s : State) : (resetRegisters s).seq = .wait := rfl
@[simp] theorem resetRegisters_err (s : State) : (resetRegisters s).err = .none := rfl
@[simp] theorem resetRegisters_sr (s : State) : (resetRegisters s).sr = 0 := rfl
@[simp] theorem resetRegisters_bitcnt (s : State) : (resetRegisters s).bitcnt = 0 := rfl
@[simp] theorem resetRegisters_phase (s : State) : (resetRegisters s).phase = .gap := rfl
@[simp] theorem resetRegisters_tick (s : State) : (resetRegisters s).tick = s.params.tReset := rfl
@[simp] theorem resetRegisters_fail (s : State) : (resetRegisters s).fail = false := rfl
@[simp] theorem resetRegisters_params (s : State) : (resetRegisters s).params = s.params := rfl
@[simp] theorem resetRegisters_inputs (s : State) : (resetRegisters s).inputs = s.inputs := rfl
@[simp] theorem resetRegisters_edge (s : State) : (resetRegisters s).edge = s.edge := rfl

@[simp] theorem txLoad_seq (s : State) (c : Color) : (txLoad c s).seq = s.seq := rfl
@[simp] theorem txLoad_err (s : State) (c : Color) : (txLoad c s).err = s.err := rfl
@[simp] theorem txLoad_sr (s : State) (c : Color) : (txLoad c s).sr = c.word := rfl
@[simp] theorem txLoad_bitcnt (s : State) (c : Color) : (txLoad c s).bitcnt = 24 := rfl
@[simp] theorem txLoad_phase (s : State) (c : Color) : (txLoad c s).phase = .hi := rfl
@[simp] theorem txLoad_tick (s : State) (c : Color) : (txLoad c s).tick = highTicks s.params (firstBit c) := rfl
@[simp] theorem txLoad_fail (s : State) (c : Color) : (txLoad c s).fail = false := rfl
@[simp] theorem txLoad_params (s : State) (c : Color) : (txLoad c s).params = s.params := rfl
@[simp] theorem txLoad_inputs (s : State) (c : Color) : (txLoad c s).inputs = s.inputs := rfl
@[simp] theorem txLoad_edge (s : State) (c : Color) : (txLoad c s).edge = s.edge := rfl

@[simp] theorem startRender_seq (s : State) (c : Color) : (startRender c s).seq = .render := rfl
@[simp] theorem startRender_err (s : State) (c : Color) : (startRender c s).err = s.err := rfl
@[simp] theorem startRender_sr (s : State) (c : Color) : (startRender c s).sr = c.word := rfl
@[simp] theorem startRender_bitcnt (s : State) (c : Color) : (startRender c s).bitcnt = 24 := rfl
@[simp] theorem startRender_phase (s : State) (c : Color) : (startRender c s).phase = .hi := rfl
@[simp] theorem startRender_tick (s : State) (c : Color) : (startRender c s).tick = highTicks s.params (firstBit c) := rfl
@[simp] theorem startRender_fail (s : State) (c : Color) : (startRender c s).fail = false := rfl
@[simp] theorem startRender_params (s : State) (c : Color) : (startRender c s).params = s.params := rfl
@[simp] theorem startRender_inputs (s : State) (c : Color) : (startRender c s).inputs = s.inputs := rfl
@[simp] theorem startRender_edge (s : State) (c : Color) : (startRender c s).edge = s.edge := rfl

end Sys2Proof.Machine
end

