-- ==== Sys2Proof/Laws/Machine.lean ====
section
/-! SUPPORT. One lemma per shared operation of the transmitter that says once everything it can do, and what
DEC's wires say of a presented read. -/

namespace Sys2Proof.Machine

/-- Everything the end of a symbol can do (R140). -/
theorem endSymbol_cases (s : State) :
    (s.bitcnt = 1 ∧ endSymbol s = s.shiftOut.beginGap) ∨
    (s.bitcnt ≠ 1 ∧ endSymbol s = s.shiftOut.beginHigh s.nextBit) := by
  by_cases h : s.bitcnt = 1
  · exact .inl ⟨h, if_pos h⟩
  · exact .inr ⟨h, if_neg h⟩

/-- Everything one tick of a symbol can do (R139, R140, R142, R143). -/
theorem symbolTick_cases (b : Bool) (s : State) :
    ((s.phase = .hi ∨ s.phase = .lo) ∧ s.underrunSeen = true ∧ symbolTick b s = raise .transmissionFailure s) ∨
    ((s.phase = .hi ∨ s.phase = .lo) ∧ s.underrunSeen = false ∧ 1 < s.tick ∧ symbolTick b s = s.countDown) ∨
    (s.phase = .hi ∧ s.underrunSeen = false ∧ s.tick ≤ 1 ∧ symbolTick b s = s.beginLow b) ∨
    (s.phase = .lo ∧ s.underrunSeen = false ∧ s.tick ≤ 1 ∧ symbolTick b s = endSymbol s) ∨
    ((s.phase = .gap ∨ s.phase = .idle) ∧ symbolTick b s = s) := by
  rcases hu : s.underrunSeen with _ | _ <;> rcases Nat.lt_or_ge 1 s.tick with ht | ht <;>
    rcases hp : s.phase with _ | _ | _ | _ <;>
    simp_all [symbolTick, Nat.not_lt.mpr]

/-- Everything the end of a reset interval can do (R141, R176). -/
theorem endGap_cases (s : State) :
    (s.seq = .render ∧ s.tick = 1 ∧ endGap s = returnToWait s.beginIdle) ∨
    ((s.seq ≠ .render ∨ s.tick ≠ 1) ∧ endGap s = s.beginIdle) := by
  rcases hq : s.seq with _ | _ | _ <;> by_cases ht : s.tick = 1 <;> simp [endGap, hq, ht]

/-- Everything one tick of a reset interval can do (R141, R142). -/
theorem gapTick_cases (s : State) :
    (s.phase = .gap ∧ 1 < s.tick ∧ gapTick s = s.countDown) ∨
    (s.phase = .gap ∧ s.tick ≤ 1 ∧ gapTick s = endGap s) ∨
    (s.phase ≠ .gap ∧ gapTick s = s) := by
  rcases Nat.lt_or_ge 1 s.tick with ht | ht <;> rcases hp : s.phase with _ | _ | _ | _ <;>
    simp_all [gapTick, Nat.not_lt.mpr]

/-- A render in flight is at a symbol of its present bit, or in its reset interval, or over. -/
theorem renderTick_cases (s : State) :
    ((s.phase = .hi ∨ s.phase = .lo) ∧ renderTick s = symbolTick s.presentBit s) ∨
    (s.phase = .gap ∧ renderTick s = gapTick s) ∨
    (s.phase = .idle ∧ renderTick s = s) := by
  rcases hp : s.phase with _ | _ | _ | _ <;> simp [renderTick, hp]

/-- The digit wires at a byte that holds a character carry its value. -/
theorem digit_of_code {i : Input} {k : Nat} {c : HexChar} (h : i.cmdData.read k = c.code) : i.digit k = some c.value := by
  rw [Input.digit, h, hexval_code]

/-- DEC's outputs are `decode` of the presented read, its Color as the word `r:g:b` (R100, R113). -/
theorem decOutputs_eq (i : Input) :
    decOutputs i = (decodeResult (i.cmdData.readBytes 0 i.cmdLen)).map Color.word := by
  by_cases h : i.cmdLen = cmdLength
  · rw [decOutputs, if_pos h, h, show i.cmdData.readBytes 0 cmdLength = [i.cmdData.read 0, i.cmdData.read 1,
      i.cmdData.read 2, i.cmdData.read 3, i.cmdData.read 4, i.cmdData.read 5] from rfl, decodeResult]
    simp only [Input.digit]
    split <;> simp_all [Except.map, Color.word]
  · rw [decOutputs, if_neg h, decodeResult_length (by simpa [Memory.readBytes, cmdLength] using h)]
    rfl

/-- What accepting a failed decode can do (R64, R173). -/
theorem acceptError_cases (e : DecodeError) (s : State) :
    (s.cmdReady = true ∧ acceptError e s = raise (.decode e) s) ∨ (s.cmdReady = false ∧ acceptError e s = s) := by
  rcases h : s.cmdReady with _ | _ <;> simp [acceptError, h]

theorem cmdReady_iff (s : State) : s.cmdReady = true ↔ s.seq = .wait ∧ s.phase = .idle := by
  simp [State.cmdReady]

/-- What `RENDER` answers (R130, R131). -/
theorem execRender_cases (c : Color) (s : State) :
    (s.phase = .idle ∧ execRender c s = .next (startRender c s)) ∨
    (s.phase ≠ .idle ∧ execRender c s = .next (renderTick s)) := by
  rcases hp : s.phase with _ | _ | _ | _ <;> simp [execRender, hp]

/-- The row of a character writes nothing: the 22 arms are the 22 characters. -/
theorem exec_char (c : HexChar) (s : State) : exec c.instr s = .next s := by
  cases c with
  | digit d => match d with | 0 | 1 | 2 | 3 | 4 | 5 | 6 | 7 | 8 | 9 => rfl
  | upper d => match d with | 0 | 1 | 2 | 3 | 4 | 5 => rfl
  | lower d => match d with | 0 | 1 | 2 | 3 | 4 | 5 => rfl

end Sys2Proof.Machine
end

