-- ==== Sys2Proof/Laws/PerInstr.lean ====
section
/-! SUPPORT. What holds of every instruction as syntax, one lemma per constructor: the encoder puts each row into the
format the opcode table gives it (R70), a command into six bytes (R71), a symbol into `TBIT` levels (R76). -/

namespace Sys2Proof.Laws.EncodedFormat

/-- The format of a row's encoding and its size. -/
def Statement (i : Instr) : Prop :=
  ∀ p : Params, p.Valid →
    match i, encode p i with
    | .setrgb _ _ _ _ _ _, .read buf => buf.length = 6
    | .illegalInvaliddigit _ _ _ _ _ _, .read buf => buf.length = 6
    | .illegalWronglength len, .read buf => buf.length = len
    | .sym0, .line ls => ls.length = p.tBit
    | .sym1, .line ls => ls.length = p.tBit
    | .reset, .line ls => ls.length = p.tReset
    | .render _, .line ls => ls.length = p.frameTicks
    | _, .char b => isHexDigit b = true
    | _, _ => False

theorem setrgb (rh rl gh gl bh bl : HexChar) : Statement (.setrgb rh rl gh gl bh bl) := fun _ _ => rfl
theorem hexchar0 : Statement .hexchar0 := fun _ _ => isHexDigit_code _
theorem hexchar1 : Statement .hexchar1 := fun _ _ => isHexDigit_code _
theorem hexchar2 : Statement .hexchar2 := fun _ _ => isHexDigit_code _
theorem hexchar3 : Statement .hexchar3 := fun _ _ => isHexDigit_code _
theorem hexchar4 : Statement .hexchar4 := fun _ _ => isHexDigit_code _
theorem hexchar5 : Statement .hexchar5 := fun _ _ => isHexDigit_code _
theorem hexchar6 : Statement .hexchar6 := fun _ _ => isHexDigit_code _
theorem hexchar7 : Statement .hexchar7 := fun _ _ => isHexDigit_code _
theorem hexchar8 : Statement .hexchar8 := fun _ _ => isHexDigit_code _
theorem hexchar9 : Statement .hexchar9 := fun _ _ => isHexDigit_code _
theorem hexcharUpperA : Statement .hexcharUpperA := fun _ _ => isHexDigit_code _
theorem hexcharUpperB : Statement .hexcharUpperB := fun _ _ => isHexDigit_code _
theorem hexcharUpperC : Statement .hexcharUpperC := fun _ _ => isHexDigit_code _
theorem hexcharUpperD : Statement .hexcharUpperD := fun _ _ => isHexDigit_code _
theorem hexcharUpperE : Statement .hexcharUpperE := fun _ _ => isHexDigit_code _
theorem hexcharUpperF : Statement .hexcharUpperF := fun _ _ => isHexDigit_code _
theorem hexcharLowerA : Statement .hexcharLowerA := fun _ _ => isHexDigit_code _
theorem hexcharLowerB : Statement .hexcharLowerB := fun _ _ => isHexDigit_code _
theorem hexcharLowerC : Statement .hexcharLowerC := fun _ _ => isHexDigit_code _
theorem hexcharLowerD : Statement .hexcharLowerD := fun _ _ => isHexDigit_code _
theorem hexcharLowerE : Statement .hexcharLowerE := fun _ _ => isHexDigit_code _
theorem hexcharLowerF : Statement .hexcharLowerF := fun _ _ => isHexDigit_code _
theorem illegalWronglength (len : Nat) : Statement (.illegalWronglength len) := fun _ _ => by simp [encode]
theorem illegalInvaliddigit (b0 b1 b2 b3 b4 b5 : Byte) : Statement (.illegalInvaliddigit b0 b1 b2 b3 b4 b5) :=
  fun _ _ => rfl
theorem sym0 : Statement .sym0 := fun _ h => symbol_length h false
theorem sym1 : Statement .sym1 := fun _ h => symbol_length h true
theorem reset : Statement .reset := fun p _ => by simp [encode, resetWave]
theorem render (c : Color) : Statement (.render c) := fun _ h => frameWave_length h c

end Sys2Proof.Laws.EncodedFormat
end

