-- ==== Sys2Proof/Laws/Step.lean ====
section
/-! SUPPORT. What a clock edge can do, said once: what `fetch` finds, what `step` answers, and how the inputs of coming
edges are counted along a run. -/

namespace Sys2Proof.Machine

open Sys2Proof.Safety

/-! ## fetch -/

/-- What a presented read is fetched as, with the six bytes of `MemRead(0, 6)` inside `LMAX >= 7` (R7, R51). -/
theorem fetchRead_eq {s : State} (hv : s.params.Valid) :
    fetchRead s = .ok (if s.port.cmdLen = 6 then decodeRead (s.port.cmdData.readBytes 0 6)
      else .illegalWronglength s.port.cmdLen) := by
  have hl : 7 ≤ s.params.lmax := (s.params.valid_iff.1 hv).2.2.2
  by_cases h : s.port.cmdLen = 6
  · have hm : memRead s.params s.port 0 6 = .ok (s.port.cmdData.readBytes 0 6) := by
      rw [memRead, if_pos ⟨by omega, by omega⟩]
    simp [fetchRead, cmdLength, h, hm, Except.map]
  · simp [fetchRead, cmdLength, h]

/-- The same read by R51 over its whole length. -/
theorem fetchRead_decodeRead {s : State} (hv : s.params.Valid) :
    fetchRead s = .ok (decodeRead (s.port.cmdData.readBytes 0 s.port.cmdLen)) := by
  rw [fetchRead_eq hv]
  by_cases h : s.port.cmdLen = 6
  · rw [if_pos h, h]
  · rw [if_neg h, decodeRead_length (by simpa [Memory.readBytes] using h)]
    simp [Memory.readBytes]

/-- Everything an edge can find to run (R182). -/
theorem fetch_cases {s : State} (hv : s.params.Valid) :
    (s.cmdReady = true ∧ s.port.cmdValid = true ∧ s.port.cmdLen ≠ 0 ∧
      fetch s = .ok (some (decodeRead (s.port.cmdData.readBytes 0 s.port.cmdLen)))) ∨
    (s.cmdReady = true ∧ s.port.cmdValid = true ∧ s.port.cmdLen = 0 ∧ fetch s = .ok none) ∨
    (s.cmdReady = true ∧ s.port.cmdValid = false ∧ fetch s = .ok (drivenChar s.port)) ∨
    (s.seq = .diag ∧ fetch s = .ok none) ∨
    (s.cmdReady = false ∧ s.seq ≠ .diag ∧ fetch s = .ok (lineElement s)) := by
  have hr := fetchRead_decodeRead hv
  rcases hq : s.seq with _ | _ | _ <;> rcases hp : s.phase with _ | _ | _ | _ <;>
    rcases hc : s.port.cmdValid with _ | _ <;> by_cases hl : s.port.cmdLen = 0 <;>
    simp [fetch, State.cmdReady, hq, hp, hc, hl, hr, Except.map]

/-- A driven character is one of the 22 rows. -/
theorem drivenChar_cases (i : Input) :
    drivenChar i = none ∨ ∃ c : HexChar, i.cmdLen = 6 ∧ hexChar (i.cmdData.read 0) = some c ∧ drivenChar i = some c.instr := by
  unfold drivenChar
  split
  · rcases h : hexChar (i.cmdData.read 0) with _ | c
    · exact .inl rfl
    · exact .inr ⟨c, ‹_›, rfl, rfl⟩
  · exact .inl rfl

/-! ## step -/

/-- Everything a step of a valid machine can answer: a reset, an instruction's edge, or an edge that runs none. -/
theorem step_cases {s : State} (hv : s.params.Valid) :
    (s.port.rst = true ∧ step s = .next (resetRegisters s).advance) ∨
    (s.port.rst = false ∧ ∃ i, fetch s = .ok (some i) ∧ step s = endEdge (exec i s)) ∨
    (s.port.rst = false ∧ fetch s = .ok none ∧ step s = .next (plainEdge s).advance) := by
  rcases hr : s.port.rst with _ | _
  · have hf : ∃ o, fetch s = .ok o := by
      rcases fetch_cases hv with ⟨-, -, -, h⟩ | ⟨-, -, -, h⟩ | ⟨-, -, h⟩ | ⟨-, h⟩ | ⟨-, -, h⟩ <;> exact ⟨_, h⟩
    obtain ⟨o, ho⟩ := hf
    cases o with
    | none => exact .inr (.inr ⟨rfl, ho, by simp [step, hv, hr, ho]⟩)
    | some i => exact .inr (.inl ⟨rfl, i, ho, by simp [step, hv, hr, ho]⟩)
  · exact .inl ⟨rfl, by simp [step, hv, hr]⟩

theorem step_of_invalid {s : State} (hv : s.params.valid = false) : step s = .refused .badParameters := by
  simp [step, hv]

/-- A machine that steps has a valid parameter set. -/
theorem valid_of_step {s t : State} (h : step s = .next t) : s.params.valid = true := by
  rcases hv : s.params.valid with _ | _
  · rw [step_of_invalid hv] at h
    cases h
  · rfl

/-! ## The inputs along a run -/

/-- The next edge samples input 0. -/
theorem port_eq_inputAt (s : State) : s.port = inputAt s 0 := by
  rcases h : s.inputs with _ | ⟨i, is⟩ <;> simp [State.port, inputAt, h]

/-- After an edge the inputs count from the next one. -/
theorem inputAt_advance (s : State) (k : Nat) : inputAt s.advance k = inputAt s (k + 1) := by
  rcases h : s.inputs with _ | ⟨i, is⟩ <;>
    simp [inputAt, h, Nat.add_comm, Nat.add_left_comm]

/-- Only the three environment fields decide what is sampled when. -/
theorem inputAt_congr {s t : State} (hi : t.inputs = s.inputs) (hp : t.params = s.params) (he : t.edge = s.edge)
    (k : Nat) : inputAt t k = inputAt s k := by
  simp [inputAt, hi, hp, he]

theorem afterEdge_of_step {s t : State} (h : step s = .next t) : afterEdge s = t := by
  simp [afterEdge, h]

/-- One edge of a run. -/
theorem after_succ_of_step {s t : State} (h : step s = .next t) (k : Nat) : after (k + 1) s = after k t := by
  rw [after, afterEdge_of_step h]

/-- A run in two parts. -/
theorem after_add (j k : Nat) (s : State) : after (j + k) s = after k (after j s) := by
  induction j generalizing s with
  | zero => simp [after]
  | succ j ih => rw [Nat.succ_add, after, ih, after]

/-- The levels of a run in two parts. -/
theorem levels_add (j k : Nat) (s : State) : levels (j + k) s = levels j s ++ levels k (after j s) := by
  simp [levels, List.range_add, after_add]

/-- The levels of a run, its present interval first. -/
theorem levels_succ_of_step {s t : State} (h : step s = .next t) (n : Nat) :
    levels (n + 1) s = s.dout :: levels n t := by
  rw [Nat.add_comm, levels_add, after_succ_of_step h 0]
  rfl

/-! ## The premises -/

/-- Where every listed input leaves `rst` at 0 and the list is long enough, there is no reset. -/
theorem noReset_of_inputs {s : State} {a n : Nat} (h : ∀ i ∈ s.inputs, i.rst = false) (hn : a + n ≤ s.inputs.length) :
    NoReset s a n := by
  intro k _ hk
  rw [inputAt, List.getD_eq_getElem _ _ (by omega)]
  exact h _ (List.getElem_mem _)

/-- Where every listed input leaves `underrun` at 0 and the list is long enough, there is no underrun. -/
theorem noUnderrun_of_inputs {s : State} {a n : Nat} (h : ∀ i ∈ s.inputs, i.underrun = false)
    (hn : a + n ≤ s.inputs.length) : NoUnderrun s a n := by
  intro k _ hk
  rw [inputAt, List.getD_eq_getElem _ _ (by omega)]
  exact h _ (List.getElem_mem _)

/-- A read among the listed inputs is presented at its place. -/
theorem presents_of_inputs {s : State} {k : Nat} {buf : List Byte} (h : s.inputs[k]? = some (.present buf)) :
    Presents s k buf := by
  have e : inputAt s k = .present buf := by simp [inputAt, List.getD_eq_getElem?_getD, h]
  rw [Presents, e]
  exact ⟨rfl, rfl, Memory.readBytes_ofBytes buf⟩

end Sys2Proof.Machine
end

