-- ==== Sys2Proof/Tests/Slice0.lean ====
section
/-! SUPPORT. Tests: the ill-formed terms are refused; words written out from the spec decode to their rows; one or two steps
per row with results from 95_test_vectors.md; and, for each statement with hypotheses, a state that meets them. -/

namespace Sys2Proof.Tests

open Sys2Proof.Machine Sys2Proof.Safety

/-! ## WellFormed -/

theorem test_wf_refuses_six_bytes_as_wrong_length : (Instr.illegalWronglength 6).wf = false := by decide
theorem test_wf_takes_other_lengths : (Instr.illegalWronglength 7).wf = true ∧ (Instr.illegalWronglength 0).wf = true := by
  decide
/-- Six digits are no invalid-digit read: `ff0000`. -/
theorem test_wf_refuses_six_digits_as_invalid :
    (Instr.illegalInvaliddigit 0x66 0x66 0x30 0x30 0x30 0x30).wf = false := by decide
theorem test_wf_takes_an_invalid_digit : (Instr.illegalInvaliddigit 0x66 0x66 0x30 0x30 0x30 0x67).wf = true := by decide

/-! ## Decoding (opcode_table.json; 95_test_vectors.md 2.1, 2.3, 2.4) -/

theorem test_digit_rows_decode :
    decodeTableWord 8 0b00110000 = some .hexchar0 ∧ decodeTableWord 8 0b00110001 = some .hexchar1 ∧
    decodeTableWord 8 0b00110010 = some .hexchar2 ∧ decodeTableWord 8 0b00110011 = some .hexchar3 ∧
    decodeTableWord 8 0b00110100 = some .hexchar4 ∧ decodeTableWord 8 0b00110101 = some .hexchar5 ∧
    decodeTableWord 8 0b00110110 = some .hexchar6 ∧ decodeTableWord 8 0b00110111 = some .hexchar7 ∧
    decodeTableWord 8 0b00111000 = some .hexchar8 ∧ decodeTableWord 8 0b00111001 = some .hexchar9 := by decide

theorem test_upper_rows_decode :
    decodeTableWord 8 0b01000001 = some .hexcharUpperA ∧ decodeTableWord 8 0b01000010 = some .hexcharUpperB ∧
    decodeTableWord 8 0b01000011 = some .hexcharUpperC ∧ decodeTableWord 8 0b01000100 = some .hexcharUpperD ∧
    decodeTableWord 8 0b01000101 = some .hexcharUpperE ∧ decodeTableWord 8 0b01000110 = some .hexcharUpperF := by decide

theorem test_lower_rows_decode :
    decodeTableWord 8 0b01100001 = some .hexcharLowerA ∧ decodeTableWord 8 0b01100010 = some .hexcharLowerB ∧
    decodeTableWord 8 0b01100011 = some .hexcharLowerC ∧ decodeTableWord 8 0b01100100 = some .hexcharLowerD ∧
    decodeTableWord 8 0b01100101 = some .hexcharLowerE ∧ decodeTableWord 8 0b01100110 = some .hexcharLowerF := by decide

/-- 2.1: the bytes next to the three ranges, and others, are no digits. -/
theorem test_bytes_next_to_the_ranges :
    [0x2F, 0x3A, 0x40, 0x47, 0x60, 0x67, 0x7A, 0x00, 0x0A, 0x20, 0x80, 0xE9, 0xFF].all
      (fun b : Byte => decide (decode .default (.char b) = .error (.notAHexDigit b))) = true := by decide

/-- 2.3: `ff0000`, byte 0 in bits 7 to 0. -/
theorem test_setrgb_decodes :
    decodeTableWord 48 0x303030306666 =
      some (.setrgb (.lower 5) (.lower 5) (.digit 0) (.digit 0) (.digit 0) (.digit 0)) := by decide

/-- 2.4: `zz0000`, `ff000g`, `ff 000`. -/
theorem test_invalid_digit_decodes :
    decodeRead [0x7a, 0x7a, 0x30, 0x30, 0x30, 0x30] = .illegalInvaliddigit 0x7a 0x7a 0x30 0x30 0x30 0x30 ∧
    decodeRead [0x66, 0x66, 0x30, 0x30, 0x30, 0x67] = .illegalInvaliddigit 0x66 0x66 0x30 0x30 0x30 0x67 ∧
    decodeRead [0x66, 0x66, 0x20, 0x30, 0x30, 0x30] = .illegalInvaliddigit 0x66 0x66 0x20 0x30 0x30 0x30 := by decide

/-- 2.4: empty, `zz00` (the length first), `ff0000` LF. -/
theorem test_wrong_length_decodes :
    decodeRead [] = .illegalWronglength 0 ∧ decodeRead [0x7a, 0x7a, 0x30, 0x30] = .illegalWronglength 4 ∧
    decodeRead [0x66, 0x66, 0x30, 0x30, 0x30, 0x30, 0x0a] = .illegalWronglength 7 := by decide

theorem test_sym0_decodes : decodeTableWord 25 0b1111111100000000000000000 = some .sym0 := by decide
theorem test_sym1_decodes : decodeTableWord 25 0b1111111111111111100000000 = some .sym1 := by decide

/-- A parameter set within R7 with short times, for tests of whole elements. -/
def short : Params :=
  { lmax := 7, fClk := 20000, t0h := 1, t0l := 2, t1h := 2, t1l := 1, tReset := 3, tickW := 2,
    diagMsg := [] }

theorem test_short_is_valid : short.Valid := by decide
theorem test_reset_decodes : decode short (.line [false, false, false]) = .ok .reset := by decide
theorem test_no_line_element : decode short (.line [true, false]) = .error .notALineElement := by decide

/-- 2.5: (128, 1, 0) sends its 1s at symbols 0 and 15. -/
theorem test_frame_bits :
    frameBits ⟨0x80, 0x01, 0x00⟩ = [true, false, false, false, false, false, false, false] ++
      [false, false, false, false, false, false, false, true] ++ List.replicate 8 false := by decide

/-- 2.2: "1A" is 26, "A1" is 161. -/
theorem test_pair : HexChar.pair (.digit 1) (.upper 0) = 26#8 ∧ HexChar.pair (.upper 0) (.digit 1) = 161#8 := by decide

/-- Source S2: `1a2B3c` and `1A2b3C`, the Color (26, 43, 60). -/
theorem test_decode_case :
    commandColor (.digit 1) (.lower 0) (.digit 2) (.upper 1) (.digit 3) (.lower 2) = ⟨26, 43, 60⟩ ∧
    commandColor (.digit 1) (.upper 0) (.digit 2) (.lower 1) (.digit 3) (.upper 2) = ⟨26, 43, 60⟩ := by decide

/-! ## Steps -/

/-- A block with the registers of 95_test_vectors.md 2.7 and one input for the next edge. -/
def blk (p : Params) (seq : Seq) (err : Err) (phase : Phase) (tick : Nat) (bitcnt : BitVec 5) (sr : Frame) (fail : Bool)
    (ins : List Input) : State :=
  { seq := seq, err := err, sr := sr, bitcnt := bitcnt, phase := phase, tick := tick, fail := fail, params := p, inputs := ins,
    edge := 0 }

/-- A block that waits for a command. -/
def waiting (p : Params) (ins : List Input) : State := blk p .wait .none .idle 0 0 0 false ins

/-- The state an outcome answers, if it is a next state. -/
def answer : Host.Outcome State Fault Refusal → Option State
  | .next s => some s
  | .fault _ => none
  | .refused _ => none

/-- The registers after one step, if it answers a next state. -/
def stepped (s : State) : Option Registers := (answer (step s)).map registers

/-- A quiet edge on which `underrun` is 1. -/
def under : Input := { Input.quiet with underrun := true }

/-- R103, R104, R105: `7`, `A`, `f` on the port of a waiting block; the wires carry the value, the step runs the row. -/
theorem test_driven_characters :
    (State.reset.withFetchWord 8 0x37).port.digit 0 = some 7 ∧
    (State.reset.withFetchWord 8 0x41).port.digit 5 = some 10 ∧
    (State.reset.withFetchWord 8 0x66).port.digit 3 = some 15 ∧
    fetch (State.reset.withFetchWord 8 0x37) = .ok (some .hexchar7) ∧
    stepped (State.reset.withFetchWord 8 0x37) = some ⟨.wait, .none, 0, 0, .idle, 0, false⟩ := ⟨rfl, rfl, rfl, rfl, rfl⟩

/-- R113 on `1a2B3c` (R107), and on the source's `ff00` and `zz0000` (R108, R109). -/
theorem test_dec_outputs :
    decOutputs (.present [0x31, 0x61, 0x32, 0x42, 0x33, 0x63]) = .ok 0x1A2B3C ∧
    decOutputs (.present [0x66, 0x66, 0x30, 0x30]) = .error .wrongLength ∧
    decOutputs (.present [0x7a, 0x7a, 0x30, 0x30, 0x30, 0x30]) = .error .invalidDigit := ⟨rfl, rfl, rfl⟩

/-- 2.7 row 1: `ff0000`. -/
theorem test_setrgb_step :
    stepped (waiting .default [.present [0x66, 0x66, 0x30, 0x30, 0x30, 0x30]]) =
      some ⟨.render, .none, 0xFF0000, 24, .hi, 17, false⟩ := by decide

/-- 2.7 row 3: `err` kept, `fail` cleared. -/
theorem test_setrgb_step_keeps_err :
    stepped (blk .default .wait .invalidDigit .idle 0 0 0 true [.present [0x30, 0x30, 0x30, 0x30, 0x66, 0x66]]) =
      some ⟨.render, .invalidDigit, 0x0000FF, 24, .hi, 8, false⟩ := by decide

/-- 2.7 row 4: `zz0000`. -/
theorem test_invalid_digit_step :
    stepped (waiting .default [.present [0x7a, 0x7a, 0x30, 0x30, 0x30, 0x30]]) =
      some ⟨.diag, .invalidDigit, 0, 0, .idle, 0, false⟩ := by decide

/-- 2.7 row 6: `ff00`, `err` overwritten. -/
theorem test_wrong_length_step :
    stepped (blk .default .wait .invalidDigit .idle 0 0 0 false [.present [0x66, 0x66, 0x30, 0x30]]) =
      some ⟨.diag, .wrongLength, 0, 0, .idle, 0, false⟩ := by decide

/-- R171: a `cmd_len` above `LMAX` is a wrong length like any other. -/
theorem test_length_above_capacity :
    stepped (waiting .default [{ Input.quiet with cmdValid := true, cmdLen := 100 }]) =
      some ⟨.diag, .wrongLength, 0, 0, .idle, 0, false⟩ := by decide

/-- 2.7 rows 7 and 11: the empty read; a command not taken in `DIAG`. -/
theorem test_empty_read_and_diag :
    stepped (waiting .default [.present []]) = some ⟨.wait, .none, 0, 0, .idle, 0, false⟩ ∧
    stepped (blk .default .diag .invalidDigit .idle 0 0 0 false [.present [0x66, 0x66, 0x30, 0x30, 0x30, 0x30]]) =
      some ⟨.wait, .invalidDigit, 0, 0, .idle, 0, false⟩ := by decide

/-- 2.6: the high part of a "0" ends with 17 low ticks, its low part with the next symbol. -/
theorem test_sym0_steps :
    stepped (blk .default .render .none .hi 1 16 0 false [.quiet]) = some ⟨.render, .none, 0, 16, .lo, 17, false⟩ ∧
    stepped (blk .default .render .none .lo 1 1 0 false [.quiet]) = some ⟨.render, .none, 0, 0, .gap, 1000, false⟩ := by
  decide

/-- 2.6: the high part of a "1" ends with 8 low ticks, its low part with the next bit, 0 or 1. -/
theorem test_sym1_steps :
    stepped (blk .default .render .none .hi 1 24 0xFF0000 false [.quiet]) =
      some ⟨.render, .none, 0xFF0000, 24, .lo, 8, false⟩ ∧
    stepped (blk .default .render .none .lo 1 24 0xFF0000 false [.quiet]) =
      some ⟨.render, .none, 0xFE0000, 23, .hi, 17, false⟩ ∧
    stepped (blk .default .render .none .lo 1 17 0x800000 false [.quiet]) =
      some ⟨.render, .none, 0, 16, .hi, 8, false⟩ := by decide

/-- 2.6: the abort wins over the end of the frame. -/
theorem test_underrun_at_the_last_tick :
    stepped (blk .default .render .none .lo 1 1 0x800000 false [under]) =
      some ⟨.render, .none, 0, 0, .gap, 1000, true⟩ := by decide

/-- 2.6, 2.7: the reset interval ignores `underrun`; its last tick returns to `WAIT`. -/
theorem test_reset_steps :
    stepped (blk .default .render .none .gap 1000 0 0 false [under]) = some ⟨.render, .none, 0, 0, .gap, 999, false⟩ ∧
    stepped (blk .default .render .none .gap 1 0 0 true [under]) = some ⟨.wait, .none, 0, 0, .idle, 0, true⟩ := by decide

/-- 2.6: `tx_load((255,0,0))`. -/
theorem test_render_loads :
    (answer (exec (.render ⟨255, 0, 0⟩) (waiting .default []))).map registers =
      some ⟨.render, .none, 0xFF0000, 24, .hi, 17, false⟩ := by decide

/-- A second render waits. -/
theorem test_render_goes_on :
    (answer (exec (.render ⟨0, 0, 0⟩) (blk .default .render .none .hi 3 10 0x3C0000 false [.quiet]))).map registers =
      some ⟨.render, .none, 0x3C0000, 10, .hi, 2, false⟩ := by decide

/-- 2.7, last row: reset over underrun. -/
theorem test_reset_over_underrun :
    stepped (blk .default .render .none .hi 1 5 0x780000 false [{ under with rst := true }]) =
      some ⟨.wait, .none, 0, 0, .gap, 1000, false⟩ := by decide

/-- R7: `T0H` not below `T0L` is refused. -/
theorem test_bad_parameters : stepped (waiting { short with t0h := 2 } [.quiet]) = none := by decide

/-! ## The command buffer -/

theorem test_reset_lists_nothing : State.reset.inputs = [] := rfl
theorem test_buffer_write_keeps_form :
    Memory.write [(1, 5)] 0 7 = [(0, 7), (1, 5)] ∧ Memory.write [(1, 5)] 1 0 = [] ∧
    (Memory.write [(1, 5)] 0 7).wf = true := by decide

/-! ## Witnesses: the hypotheses of each statement are met together -/

theorem witness_DecodeOfEncodeIsIdentity :
    Params.default.Valid ∧ (Instr.illegalInvaliddigit 0 0 0 0 0 0).wf = true ∧ Instr.sym0.wf = true := by decide

theorem witness_HexDigitCharactersAreThreeRanges : hexval 0x67 = none := by decide

theorem witness_DigitValueByClass :
    (0x30#8 ≤ 0x39#8 ∧ 0x39#8 ≤ 0x39#8) ∧ (0x41#8 ≤ 0x46#8 ∧ 0x46#8 ≤ 0x46#8) ∧ (0x61#8 ≤ 0x66#8 ∧ 0x66#8 ≤ 0x66#8) := by
  decide

theorem witness_DecodeTestsLengthThenDigits :
    ([0x66, 0x66, 0x30, 0x30, 0x30] : List Byte).length ≠ 6 ∧
    (∃ b ∈ ([0x66, 0x66, 0x30, 0x30, 0x30, 0x67] : List Byte), hexval b = none) ∧
    (∀ b ∈ ([0x66, 0x66, 0x30, 0x30, 0x30, 0x30] : List Byte), hexval b ≠ none) := by decide

theorem witness_LetterCaseDoesNotMatter :
    (([0x66, 0x46] : List Byte)[0]? = some 0x66 ∧ 0x61#8 ≤ 0x66#8 ∧ 0x66#8 ≤ 0x66#8) ∧
    (([0x66, 0x46] : List Byte)[1]? = some 0x46 ∧ 0x41#8 ≤ 0x46#8 ∧ 0x46#8 ≤ 0x46#8) := by decide

theorem witness_FrameWaveTickForTick :
    Params.default.Valid ∧ (frameBits ⟨128, 0, 0⟩)[0]? = some true ∧ 24 < Params.default.t0h + Params.default.t0l ∧
    999 < Params.default.tReset := by decide

theorem witness_ReceiverReadsTheColorBack : Params.default.Valid := by decide

/-- The ten digits of class `DIGIT`, then the twelve letters, each on its byte of one port. -/
theorem witness_DigitRowsEvaluateTheirCharacter :
    let s := waiting .default [.present ((List.range 10).map fun k => BitVec.ofNat 8 (0x30 + k))]
    ∀ k, k < 10 → s.port.cmdData.read k = BitVec.ofNat 8 (0x30 + k) := by decide
theorem witness_UpperRowsEvaluateTheirCharacter :
    let s := waiting .default [.present ((List.range 6).map fun k => BitVec.ofNat 8 (0x41 + k))]
    ∀ k, k < 6 → s.port.cmdData.read k = BitVec.ofNat 8 (0x41 + k) := by decide
theorem witness_LowerRowsEvaluateTheirCharacter :
    let s := waiting .default [.present ((List.range 6).map fun k => BitVec.ofNat 8 (0x61 + k))]
    ∀ k, k < 6 → s.port.cmdData.read k = BitVec.ofNat 8 (0x61 + k) := by decide

/-- `1a2B3c` on the port. -/
theorem witness_SixCharacterRowsSpellTheColor :
    let s := waiting .default [.present [0x31, 0x61, 0x32, 0x42, 0x33, 0x63]]
    s.port.cmdLen = 6 ∧ s.port.cmdData.readBytes 0 6 = [(HexChar.digit 1).code, (HexChar.lower 0).code,
      (HexChar.digit 2).code, (HexChar.upper 1).code, (HexChar.digit 3).code, (HexChar.lower 2).code] := by decide

/-- `cmd_ready` is 1: SetrgbLoadsTheFrame, DecodeErrorEntersDiag; with the length of the second's clause. -/
theorem witness_SetrgbLoadsTheFrame : (waiting .default []).cmdReady = true := by decide
theorem witness_DecodeErrorEntersDiag : (waiting .default []).cmdReady = true ∧ (1 : Nat) ≠ 0 := by decide
theorem witness_CommandsWhileBusyChangeNothing : (blk .default .diag .wrongLength .idle 0 0 0 false []).cmdReady = false := by
  decide
theorem witness_RenderLoadsTheFrame : (waiting .default []).phase = .idle := rfl

/-- A render in `HI`, in `GAP`; the present bit 1 and 0. -/
theorem witness_SecondRenderWaits :
    State.reset.phase = .gap ∧
    (let s := blk .default .render .none .hi 1 24 0x800000 false []; s.phase ≠ .idle ∧ s.phase ≠ .gap ∧ s.sr.getLsbD 23 = true) ∧
    (let s := blk .default .render .none .lo 1 24 0 false []; s.phase ≠ .idle ∧ s.phase ≠ .gap ∧ s.sr.getLsbD 23 = false) := by
  decide

/-- Both clauses of HighPartTick at the values where they meet, 2 and 1, and its clause on the edge. -/
theorem witness_HighPartTick :
    (let s := blk .default .render .none .hi 2 24 0 false [.quiet]
     s.phase = .hi ∧ (s.seq = .render → s.port.underrun = false) ∧ 1 < s.tick) ∧
    (let s := blk .default .render .none .hi 1 24 0 false [.quiet]
     s.phase = .hi ∧ (s.seq = .render → s.port.underrun = false) ∧ s.tick ≤ 1 ∧ s.params.Valid ∧ s.port.rst = false ∧
       s.seq = .render) := by decide

theorem witness_LowPartTick :
    (let s := blk .default .render .none .lo 2 24 0 false [.quiet]
     s.phase = .lo ∧ (s.seq = .render → s.port.underrun = false) ∧ 1 < s.tick) ∧
    (let s := blk .default .render .none .lo 1 1 0 false [.quiet]
     s.phase = .lo ∧ (s.seq = .render → s.port.underrun = false) ∧ s.tick ≤ 1 ∧ s.bitcnt = 1) ∧
    (let s := blk .default .render .none .lo 1 2 0 false [.quiet]
     s.phase = .lo ∧ (s.seq = .render → s.port.underrun = false) ∧ s.tick ≤ 1 ∧ s.bitcnt ≠ 1) := by decide

theorem witness_UnderrunAbortsTheFrame :
    (let s := blk .default .render .none .hi 1 24 0 false [under]
     s.seq = .render ∧ (s.phase = .hi ∨ s.phase = .lo) ∧ s.port.underrun = true) ∧
    (let s := blk .default .render .none .lo 1 1 0 false [under]
     s.seq = .render ∧ (s.phase = .hi ∨ s.phase = .lo) ∧ s.port.underrun = true) := by decide

theorem witness_ResetIntervalTick :
    (let s := blk .default .render .none .gap 2 0 0 false []; s.phase = .gap ∧ 1 < s.tick) ∧
    (let s := blk .default .render .none .gap 1 0 0 false []; s.phase = .gap ∧ s.tick = 1 ∧ s.seq = .render) ∧
    (let s := blk .default .wait .none .gap 1 0 0 false []; s.phase = .gap ∧ s.tick ≤ 1 ∧ (s.seq ≠ .render ∨ s.tick = 0)) := by
  decide

theorem witness_ElementsNotInProgressChangeNothing :
    (waiting .default []).phase = .idle ∧ State.reset.phase = .gap ∧
    (blk .default .render .none .hi 1 24 0 false []).phase = .hi := by decide

/-- One next state of a row of each family. -/
theorem witness_InstructionFrames (s : State) :
    (∃ t, exec .hexchar0 s = .next t) ∧ (∃ t, exec (.illegalWronglength 1) s = .next t) ∧
    (∃ t, exec (.illegalInvaliddigit 0 0 0 0 0 0) s = .next t) ∧ (∃ t, exec .sym0 s = .next t) ∧
    (∃ t, exec .reset s = .next t) :=
  ⟨⟨_, rfl⟩, ⟨_, rfl⟩, ⟨_, rfl⟩, ⟨_, rfl⟩, ⟨_, rfl⟩⟩

theorem witness_StepRunsThePresentedRead :
    (let s := waiting .default [.present [0x66, 0x66, 0x30, 0x30, 0x30, 0x30]]
     s.params.Valid ∧ s.port.rst = false ∧ s.cmdReady = true ∧ s.port.cmdValid = true ∧ s.port.cmdLen = 6) ∧
    (let s := waiting .default [.present [0x66]]
     s.params.Valid ∧ s.port.rst = false ∧ s.cmdReady = true ∧ s.port.cmdValid = true ∧ s.port.cmdLen ≠ 6 ∧
       s.port.cmdLen ≠ 0) := by decide

theorem witness_StepRunsTheLineElement :
    (let s := blk .default .render .none .hi 1 24 0 false [.quiet]
     s.params.Valid ∧ s.port.rst = false ∧ s.seq ≠ .diag ∧ s.phase = .hi) ∧
    (let s := blk .default .wait .none .gap 1 0 0 false [.quiet]
     s.params.Valid ∧ s.port.rst = false ∧ s.seq ≠ .diag ∧ s.phase = .gap) := by decide

theorem witness_StepRunsTheDrivenCharacter :
    let s := waiting .default [.drive 0x66]
    s.params.Valid ∧ s.port.rst = false ∧ s.cmdReady = true ∧ s.port.cmdValid = false ∧ s.port.cmdLen = 6 ∧
      s.port.cmdData.read 0 = (HexChar.lower 5).code := by decide

theorem witness_DiagLastsOneEdge :
    let s := blk .default .diag .wrongLength .idle 0 0 0 false [under]
    s.params.Valid ∧ s.port.rst = false ∧ s.seq = .diag := by decide

theorem witness_WaitingChangesNoRegister :
    (let s := waiting .default [.present []]
     s.params.Valid ∧ s.port.rst = false ∧ s.cmdReady = true ∧ s.port.cmdValid = true ∧ s.port.cmdLen = 0) ∧
    (let s := waiting .default [.quiet]
     s.params.Valid ∧ s.port.rst = false ∧ s.cmdReady = true ∧ s.port.cmdValid = false) := by decide

theorem witness_ResetWinsOverEverything :
    let s := blk .default .render .none .hi 1 5 0x780000 false [{ under with rst := true }]
    s.params.Valid ∧ s.port.rst = true := by decide

theorem witness_StepFollowsTheListing : (waiting .default []).params.Valid := by decide
theorem witness_BadParametersAreRefused : ¬(waiting { short with t0h := 2 } []).params.Valid := by decide
theorem witness_NoRunStops : State.reset.params.Valid := by decide

/-- The invariant holds at reset, and a step goes on from there. -/
theorem witness_StepKeepsTheInvariant : Inv State.reset ∧
    Inv { State.reset with inputs := [.quiet] } ∧ ∃ t, step { State.reset with inputs := [.quiet] } = .next t :=
  ⟨by constructor <;> decide, by constructor <;> decide, _, rfl⟩

theorem witness_BuffersStayCanonical :
    Params.default.Valid ∧
    (let s := waiting .default [.present [0x66]]
     (∀ k, (inputAt s k).cmdData.wf = true) ∧ ∃ t, step s = .next t) := by
  refine ⟨by decide, fun k => ?_, _, rfl⟩
  rcases k with _ | k
  · exact Memory.wf_ofBytes _
  · simp [inputAt, waiting, blk, freeInput, Memory.wf_ofBytes]

theorem witness_ErrIsTheLastDecodeError : ∃ t, step (waiting .default [.present [0x66]]) = .next t := ⟨_, rfl⟩
theorem witness_FailIsTheLastRendersUnderrun :
    ∃ t, step (blk .default .render .none .hi 1 5 0 false [under]) = .next t := ⟨_, rfl⟩

theorem witness_OnlyLoadShiftAbortAndResetWriteSr :
    ∃ t, step (blk .default .render .none .lo 1 5 0x400000 false [.quiet]) = .next t ∧ t.sr ≠ 0x400000 :=
  ⟨_, rfl, by decide⟩

theorem witness_PhasesAndSequencerFollowTheirArrows :
    let s := { State.reset with inputs := [Input.quiet] }
    Inv s ∧ s.port.rst = false ∧ ∃ t, step s = .next t :=
  ⟨by constructor <;> decide, rfl, _, rfl⟩

theorem witness_WaitingInGapComesFromReset :
    let s := { State.reset with inputs := [Input.quiet] }
    Inv s ∧ ∃ t, step s = .next t ∧ t.seq = .wait ∧ t.phase = .gap :=
  ⟨by constructor <;> decide, _, rfl, rfl, rfl⟩

/-- Two renders whose ports differ in everything that is not looked at. -/
theorem witness_InputsNotLookedAtHaveNoEffect :
    let s := blk .default .render .none .hi 3 10 0x3C0000 false [.quiet]
    let s' := blk .default .render .none .hi 3 10 0x3C0000 false [.present [0x66]]
    registers s = registers s' ∧ s.params = s'.params ∧ s.port.rst = s'.port.rst ∧
      (s.seq = .render → s.phase = .hi ∨ s.phase = .lo → s.port.underrun = s'.port.underrun) ∧ s.cmdReady = false ∧
      (∃ t, step s = .next t) ∧ ∃ t, step s' = .next t :=
  ⟨by decide, rfl, by decide, fun _ _ => by decide, by decide, ⟨_, rfl⟩, ⟨_, rfl⟩⟩

/-! Runs, at the short parameters. -/

theorem witness_SymbolIsSentTickForTick :
    let s := blk short .render .none .hi 2 24 0x800000 false (List.replicate 3 .quiet)
    s.params.Valid ∧ s.seq = .render ∧ s.phase = .hi ∧ s.sr.getLsbD 23 = true ∧ s.tick = s.params.t1h ∧
      NoReset s 0 s.params.tBit ∧ NoUnderrun s 0 s.params.tBit :=
  ⟨by decide, rfl, rfl, by decide, rfl, noReset_of_inputs (by decide) (by decide),
    noUnderrun_of_inputs (by decide) (by decide)⟩

/-- `ff0000` now, and the same read held from the next edge on. -/
def twoReads : State :=
  waiting short (List.replicate 153 (.present [0x66, 0x66, 0x30, 0x30, 0x30, 0x30]))

theorem twoReads_presents (k : Nat) (h : k < 153) : Presents twoReads k [0x66, 0x66, 0x30, 0x30, 0x30, 0x30] := by
  apply presents_of_inputs
  simp only [twoReads, waiting, blk, List.getElem?_replicate, if_pos h]

theorem twoReads_quiet (i : Input) (h : i ∈ twoReads.inputs) : i.rst = false ∧ i.underrun = false := by
  obtain rfl : i = .present [0x66, 0x66, 0x30, 0x30, 0x30, 0x30] := by
    exact List.eq_of_mem_replicate h
  exact ⟨rfl, rfl⟩

theorem twoReads_noReset (a n : Nat) (h : a + n ≤ 153) : NoReset twoReads a n :=
  noReset_of_inputs (fun i hi => (twoReads_quiet i hi).1) (by
    simp only [twoReads, waiting, blk, List.length_replicate]; exact h)

theorem twoReads_noUnderrun (a n : Nat) (h : a + n ≤ 153) : NoUnderrun twoReads a n :=
  noUnderrun_of_inputs (fun i hi => (twoReads_quiet i hi).2) (by
    simp only [twoReads, waiting, blk, List.length_replicate]; exact h)

theorem decode_ff0000 : decodeResult [0x66, 0x66, 0x30, 0x30, 0x30, 0x30] = .ok ⟨255, 0, 0⟩ := rfl

theorem witness_AcceptedCommandIsSentWhole :
    twoReads.params.Valid ∧ twoReads.cmdReady = true ∧ Presents twoReads 0 [0x66, 0x66, 0x30, 0x30, 0x30, 0x30] ∧
      decodeResult [0x66, 0x66, 0x30, 0x30, 0x30, 0x30] = .ok ⟨255, 0, 0⟩ ∧
      NoReset twoReads 0 (1 + twoReads.params.frameTicks) ∧ NoUnderrun twoReads 1 twoReads.params.frameTicks :=
  ⟨by decide, by decide, twoReads_presents 0 (by decide), decode_ff0000, twoReads_noReset _ _ (by decide),
    twoReads_noUnderrun _ _ (by decide)⟩

theorem witness_TwoFramesDoNotInterleave :
    twoReads.params.Valid ∧ twoReads.cmdReady = true ∧ Presents twoReads 0 [0x66, 0x66, 0x30, 0x30, 0x30, 0x30] ∧
      decodeResult [0x66, 0x66, 0x30, 0x30, 0x30, 0x30] = .ok ⟨255, 0, 0⟩ ∧
      Presents twoReads (1 + twoReads.params.frameTicks) [0x66, 0x66, 0x30, 0x30, 0x30, 0x30] ∧
      NoReset twoReads 0 (1 + 2 * twoReads.params.frameTicks) ∧ NoUnderrun twoReads 1 twoReads.params.frameTicks ∧
      NoUnderrun twoReads (2 + twoReads.params.frameTicks) twoReads.params.frameTicks :=
  ⟨by decide, by decide, twoReads_presents 0 (by decide), decode_ff0000, twoReads_presents _ (by decide),
    twoReads_noReset _ _ (by decide), twoReads_noUnderrun _ _ (by decide), twoReads_noUnderrun _ _ (by decide)⟩

theorem witness_HeldCommandIsTakenAfterTheRender :
    twoReads.params.Valid ∧ twoReads.cmdReady = true ∧ Presents twoReads 0 [0x66, 0x66, 0x30, 0x30, 0x30, 0x30] ∧
      decodeResult [0x66, 0x66, 0x30, 0x30, 0x30, 0x30] = .ok ⟨255, 0, 0⟩ ∧
      1 ≤ twoReads.params.frameTicks ∧ Presents twoReads 1 [0x66, 0x66, 0x30, 0x30, 0x30, 0x30] ∧
      Hold twoReads (1 + twoReads.params.frameTicks) ∧ NoReset twoReads 0 (2 + twoReads.params.frameTicks) ∧
      NoUnderrun twoReads 1 twoReads.params.frameTicks := by
  refine ⟨by decide, by decide, twoReads_presents 0 (by decide), decode_ff0000, by decide,
    twoReads_presents 1 (by decide), fun k buf hk _ hp => ?_, twoReads_noReset _ _ (by decide),
    twoReads_noUnderrun _ _ (by decide)⟩
  have hk' : k < 76 := hk
  have e : inputAt twoReads (k + 1) = inputAt twoReads k := by
    simp only [inputAt, twoReads, waiting, blk, List.getD_eq_getElem?_getD, List.getElem?_replicate,
      if_pos (show k < 153 by omega), if_pos (show k + 1 < 153 by omega), Option.getD_some]
  rw [Presents, e]
  exact hp

theorem witness_PowerOnGapThenReady :
    let s := blk short .render .none .hi 1 5 0 false ({ Input.quiet with rst := true } :: List.replicate 3 .quiet)
    s.params.Valid ∧ s.port.rst = true ∧ NoReset s 1 s.params.tReset := by
  refine ⟨by decide, rfl, fun k h1 hk => ?_⟩
  have hk' : k < 4 := hk
  match k, h1, hk' with
  | 1, _, _ | 2, _, _ | 3, _, _ => rfl

theorem witness_AbortedFrameIsReportedAndTheLoopGoesOn :
    let s := blk short .render .none .hi 1 5 0 false (List.replicate 4 under)
    s.params.Valid ∧ s.seq = .render ∧ (s.phase = .hi ∨ s.phase = .lo) ∧ s.port.underrun = true ∧
      NoReset s 0 (1 + s.params.tReset) :=
  ⟨by decide, rfl, .inl rfl, rfl, noReset_of_inputs (by decide) (by decide)⟩

theorem witness_BadReadGivesOneDiagnosticPulse :
    let s := waiting short [.present [0x66], .quiet]
    s.params.Valid ∧ s.cmdReady = true ∧ Presents s 0 [0x66] ∧ ([0x66] : List Byte) ≠ [] ∧
      decodeResult [0x66] = .error .wrongLength ∧ NoReset s 0 2 :=
  ⟨by decide, by decide, presents_of_inputs rfl, by decide, rfl, noReset_of_inputs (by decide) (by decide)⟩

theorem witness_EveryStateReturnsToWaiting :
    let s := { State.reset with params := short, tick := 3, inputs := List.replicate 75 Input.quiet }
    s.params.Valid ∧ Inv s ∧ NoReset s 0 s.params.frameTicks :=
  ⟨by decide, by constructor <;> decide, noReset_of_inputs (by decide) (by decide)⟩

/-- Two ports that differ past the six bytes only; an accept edge of each of DEC's three results. -/
theorem witness_DecoderIsCombinational :
    (let i : Input := .present [0x66, 0x66, 0x30, 0x30, 0x30, 0x30]
     let i' : Input := { i with cmdData := Memory.write i.cmdData 6 0x30 }
     i.cmdLen = i'.cmdLen ∧ i.cmdData.readBytes 0 6 = i'.cmdData.readBytes 0 6) ∧
    ([[0x66, 0x66, 0x30, 0x30, 0x30, 0x30], [0x66], [0x67, 0x66, 0x30, 0x30, 0x30, 0x30]] : List (List Byte)).all fun buf =>
      let s := waiting .default [.present buf]
      s.params.valid && !s.port.rst && s.cmdReady && s.port.cmdValid && decide (s.port.cmdLen ≠ 0) := by decide

theorem witness_DiagnosticTextHasNoEffect :
    ∃ t, step (blk .default .diag .wrongLength .idle 0 0 0 false [.quiet]) = .next t := ⟨_, rfl⟩

/-- The default set, and one at the boundary: `TRESET` one above the longer low part. -/
theorem witness_ReceiverReadsEveryFrameOfATrace :
    (Params.default.Valid ∧ Params.default.t0l < Params.default.tReset ∧ Params.default.t1l < Params.default.tReset) ∧
    (short.Valid ∧ short.t0l < short.tReset ∧ short.t1l < short.tReset ∧ short.tReset = short.t0l + 1) := by decide

/-- 95_test_vectors.md 2.5: a low run of `TRESET` ticks cuts the trace, a shorter one does not. -/
theorem test_receiver_split :
    splitAtResets 3 [true, false, false, true, false, false, false, true, false] [] 0 =
      [[true, false, false, true], [true, false]] := by decide

end Sys2Proof.Tests
end

