-- ==== Sys2Proof/Proofs/Scope.lean ====
section
/-! The obligations of 00_scope.md: R7's constraints decide whether `step` refuses, and `DIAG_MSG` (R6) reaches no step. -/

namespace Sys2Proof.Machine

/-! ## R7's constraints -/

/-- Settles O34: `step` tests `Params.valid` first, and each violation contradicts its constraint in `Params.valid_iff`. -/
theorem badParametersAreRefused : Obligations.BadParametersAreRefused := by
  refine ⟨fun s hv => step_of_invalid (Bool.eq_false_of_not_eq_true hv), Params.default_valid, fun p h => ?_⟩
  rw [p.valid_iff]
  omega

/-! ## Replacing the diagnostic text

`withDiagMsg` commutes with everything an edge does. The proofs go up the model: what a state shows, the register moves, the
ticks, the arms of `exec`, `step`. -/

/-- The state with another `DIAG_MSG` in its parameter set. -/
def State.withDiagMsg (s : State) (text : List Byte) : State :=
  { s with params := { s.params with diagMsg := text } }

/-- An outcome with `f` applied to its next state. -/
def mapNext (f : State → State) : Host.Outcome State Fault Refusal → Host.Outcome State Fault Refusal
  | .next s => .next (f s)
  | .fault r => .fault r
  | .refused r => .refused r

section
variable (s : State) (text : List Byte)

/-! What a state shows does not depend on the text. -/

@[simp] theorem withDiagMsg_seq : (s.withDiagMsg text).seq = s.seq := rfl
@[simp] theorem withDiagMsg_phase : (s.withDiagMsg text).phase = s.phase := rfl
@[simp] theorem withDiagMsg_tick : (s.withDiagMsg text).tick = s.tick := rfl
@[simp] theorem withDiagMsg_presentBit : (s.withDiagMsg text).presentBit = s.presentBit := rfl
@[simp] theorem withDiagMsg_cmdReady : (s.withDiagMsg text).cmdReady = s.cmdReady := rfl
@[simp] theorem withDiagMsg_valid : (s.withDiagMsg text).params.valid = s.params.valid := rfl

/-- A free input is built from `LMAX` and the width of `cmd_len` alone. -/
@[simp] theorem withDiagMsg_port : (s.withDiagMsg text).port = s.port := rfl
@[simp] theorem withDiagMsg_underrunSeen : (s.withDiagMsg text).underrunSeen = s.underrunSeen := rfl
@[simp] theorem fetch_withDiagMsg : fetch (s.withDiagMsg text) = fetch s := rfl

/-! The register moves write no parameter and read only the times. -/

@[simp] theorem advance_withDiagMsg : (s.withDiagMsg text).advance = s.advance.withDiagMsg text := rfl
@[simp] theorem countDown_withDiagMsg : (s.withDiagMsg text).countDown = s.countDown.withDiagMsg text := rfl
@[simp] theorem beginLow_withDiagMsg (b : Bool) :
    (s.withDiagMsg text).beginLow b = (s.beginLow b).withDiagMsg text := rfl
@[simp] theorem beginIdle_withDiagMsg : (s.withDiagMsg text).beginIdle = s.beginIdle.withDiagMsg text := rfl
@[simp] theorem returnToWait_withDiagMsg : returnToWait (s.withDiagMsg text) = (returnToWait s).withDiagMsg text := rfl
@[simp] theorem resetRegisters_withDiagMsg :
    resetRegisters (s.withDiagMsg text) = (resetRegisters s).withDiagMsg text := rfl
@[simp] theorem startRender_withDiagMsg (c : Color) :
    startRender c (s.withDiagMsg text) = (startRender c s).withDiagMsg text := rfl
@[simp] theorem raise_withDiagMsg (e : BlockError) : raise e (s.withDiagMsg text) = (raise e s).withDiagMsg text := by
  cases e <;> rfl

/-! The ticks of the transmitter, and an accepted error. -/

@[simp] theorem endSymbol_withDiagMsg : endSymbol (s.withDiagMsg text) = (endSymbol s).withDiagMsg text :=
  (apply_ite (State.withDiagMsg · text) (s.bitcnt = 1) s.shiftOut.beginGap (s.shiftOut.beginHigh s.nextBit)).symm

@[simp] theorem symbolTick_withDiagMsg (b : Bool) :
    symbolTick b (s.withDiagMsg text) = (symbolTick b s).withDiagMsg text := by
  rcases hp : s.phase with _ | _ | _ | _
  case hi | lo =>
    rcases hu : s.underrunSeen with _ | _ <;> by_cases ht : 1 < s.tick <;> simp [symbolTick, hp, hu, ht]
  case gap | idle => simp [symbolTick, hp]

@[simp] theorem endGap_withDiagMsg : endGap (s.withDiagMsg text) = (endGap s).withDiagMsg text := by
  rcases hq : s.seq with _ | _ | _
  case render => by_cases ht : s.tick = 1 <;> simp [endGap, hq, ht]
  case wait | diag => simp [endGap, hq]

@[simp] theorem gapTick_withDiagMsg : gapTick (s.withDiagMsg text) = (gapTick s).withDiagMsg text := by
  rcases hp : s.phase with _ | _ | _ | _
  case gap => by_cases ht : 1 < s.tick <;> simp [gapTick, hp, ht]
  case hi | lo | idle => simp [gapTick, hp]

@[simp] theorem renderTick_withDiagMsg : renderTick (s.withDiagMsg text) = (renderTick s).withDiagMsg text := by
  rcases hp : s.phase with _ | _ | _ | _ <;> simp [renderTick, hp]

@[simp] theorem acceptError_withDiagMsg (e : DecodeError) :
    acceptError e (s.withDiagMsg text) = (acceptError e s).withDiagMsg text := by
  rcases hc : s.cmdReady with _ | _ <;> simp [acceptError, hc]

@[simp] theorem plainEdge_withDiagMsg : plainEdge (s.withDiagMsg text) = (plainEdge s).withDiagMsg text := by
  rcases hq : s.seq with _ | _ | _ <;> simp [plainEdge, hq]

/-! The instructions and the step. -/

theorem execRender_withDiagMsg (c : Color) :
    execRender c (s.withDiagMsg text) = mapNext (·.withDiagMsg text) (execRender c s) := by
  rcases hp : s.phase with _ | _ | _ | _ <;> simp [execRender, hp, mapNext]

/-- Every row does the same under another text. -/
theorem exec_withDiagMsg (i : Instr) :
    exec i (s.withDiagMsg text) = mapNext (·.withDiagMsg text) (exec i s) := by
  cases i with
  | setrgb rh rl gh gl bh bl =>
    rcases hc : s.cmdReady with _ | _ <;> simp [exec, execSetrgb, hc, mapNext]
  | illegalWronglength len =>
    by_cases hl : len = 0 <;> simp [exec, execIllegalWronglength, hl, mapNext]
  | illegalInvaliddigit b0 b1 b2 b3 b4 b5 => simp [exec, execIllegalInvaliddigit, mapNext]
  | sym0 => simp [exec, execSym0, mapNext]
  | sym1 => simp [exec, execSym1, mapNext]
  | reset => simp [exec, execReset, mapNext]
  | render c => exact execRender_withDiagMsg s text c
  | _ => rfl

/-- The end of the edge moves the state on, whatever its text. -/
theorem endEdge_mapNext_withDiagMsg (o : Host.Outcome State Fault Refusal) :
    endEdge (mapNext (·.withDiagMsg text) o) = mapNext (·.withDiagMsg text) (endEdge o) := by
  cases o <;> rfl

/-- A step, refused or not, commutes with replacing the text. -/
theorem step_withDiagMsg : step (s.withDiagMsg text) = mapNext (·.withDiagMsg text) (step s) := by
  rcases hv : s.params.valid with _ | _
  · simp [step_of_invalid, hv, mapNext]
  · rcases step_cases hv with ⟨hr, h⟩ | ⟨hr, i, hf, h⟩ | ⟨hr, hf, h⟩
    · rw [h]
      simp [step, hv, hr, mapNext]
    · rw [h]
      simp [step, hv, hr, hf, exec_withDiagMsg, endEdge_mapNext_withDiagMsg]
    · rw [h]
      simp [step, hv, hr, hf, mapNext]

end

/-- Settles O55: a step commutes with replacing the text. -/
theorem diagnosticTextHasNoEffect : Obligations.DiagnosticTextHasNoEffect := by
  intro s t text h
  calc step (s.withDiagMsg text) = mapNext (·.withDiagMsg text) (step s) := step_withDiagMsg s text
    _ = .next (t.withDiagMsg text) := by rw [h, mapNext]

end Sys2Proof.Machine
end

/-! The obligations of 10_state.md. `Edge` says once what a clock edge does to the registers; the frames, the writers of
`err`, `fail` and `sr`, and the invariant of R35 are read off its cases. -/

namespace Sys2Proof.Machine

open Sys2Proof.Safety

/-! ## What an edge does to the registers -/

/-- What an accept edge does with what its read decodes to (R172, R173). -/
def acceptRead : Except DecodeError Color → State → State
  | .ok c, s => startRender c s
  | .error e, s => raise (.decode e) s

/-- What an edge does that is neither a reset nor an accept edge: the return from `DIAG` (R175), a move of the transmitter
(R139 to R143, R176), or nothing. -/
inductive Move (s : State) : State → Prop
  | stay (hq : s.seq ≠ .diag) (hp : s.phase = .idle) : Move s s
  | diagReturn (hq : s.seq = .diag) : Move s (returnToWait s)
  | abort (hq : s.seq = .render) (hp : s.phase = .hi ∨ s.phase = .lo) (hu : s.port.underrun = true) :
      Move s (raise .transmissionFailure s)
  | count (hq : s.seq ≠ .diag) (hp : s.phase ≠ .idle) (hu : s.phase ≠ .gap → s.underrunSeen = false)
      (ht : 1 < s.tick) : Move s s.countDown
  | highEnd (hq : s.seq ≠ .diag) (hp : s.phase = .hi) (hu : s.underrunSeen = false) (ht : s.tick ≤ 1) :
      Move s (s.beginLow s.presentBit)
  | lastSymbolEnd (hq : s.seq ≠ .diag) (hp : s.phase = .lo) (hu : s.underrunSeen = false) (ht : s.tick ≤ 1)
      (hb : s.bitcnt = 1) : Move s s.shiftOut.beginGap
  | symbolEnd (hq : s.seq ≠ .diag) (hp : s.phase = .lo) (hu : s.underrunSeen = false) (ht : s.tick ≤ 1)
      (hb : s.bitcnt ≠ 1) : Move s (s.shiftOut.beginHigh s.nextBit)
  | renderEnd (hq : s.seq = .render) (hp : s.phase = .gap) (ht : s.tick = 1) : Move s (returnToWait s.beginIdle)
  | gapEnd (hq : s.seq ≠ .diag) (hn : s.seq ≠ .render ∨ s.tick ≠ 1) (hp : s.phase = .gap) (ht : s.tick ≤ 1) :
      Move s s.beginIdle

/-- What one edge does, its end (`State.advance`) left out: reset, an accepted read, or a move. -/
inductive Edge (s : State) : State → Prop
  | reset (hr : s.port.rst = true) : Edge s (resetRegisters s)
  | accept (d : Except DecodeError Color) (hr : s.port.rst = false) (hc : s.cmdReady = true)
      (ha : accepted s = some d) : Edge s (acceptRead d s)
  | move {u : State} (hr : s.port.rst = false) (ha : accepted s = none) (hm : Move s u) : Edge s u

/-! ### The accept edge -/

theorem accepted_of_not_ready {s : State} (h : s.cmdReady = false) : accepted s = none := by
  simp [accepted, h]

theorem accepted_of_not_presented {s : State} (h : s.port.cmdValid = false ∨ s.port.cmdLen = 0) : accepted s = none :=
  if_neg fun ⟨_, _, hv, hl⟩ => h.elim (by simp [hv]) hl

theorem accepted_of_presented {s : State} (hr : s.port.rst = false) (hc : s.cmdReady = true)
    (hv : s.port.cmdValid = true) (hl : s.port.cmdLen ≠ 0) :
    accepted s = some (decodeResult (s.port.cmdData.readBytes 0 s.port.cmdLen)) :=
  if_pos ⟨hr, hc, hv, hl⟩

theorem hexval_isSome (b : Byte) : (hexval b).isSome = isHexDigit b := by
  rw [hexval, Option.isSome_map, hexChar_isSome]

/-- `decode` of six bytes of which one is no digit (R102). -/
theorem decodeResult_invalidDigit {b0 b1 b2 b3 b4 b5 : Byte}
    (h : (isHexDigit b0 && isHexDigit b1 && isHexDigit b2 && isHexDigit b3 && isHexDigit b4 && isHexDigit b5) = false) :
    decodeResult [b0, b1, b2, b3, b4, b5] = .error .invalidDigit := by
  simp only [← hexval_isSome] at h
  simp only [decodeResult]
  split
  · simp_all
  · rfl

/-- In a ready block the row of a read that is not empty answers what its decode asks for (R172, R173). -/
theorem exec_decodeRead {buf : List Byte} {s : State} (hc : s.cmdReady = true) (hne : buf.length ≠ 0) :
    exec (decodeRead buf) s = .next (acceptRead (decodeResult buf) s) := by
  by_cases hl : buf.length = 6
  · obtain ⟨b0, b1, b2, b3, b4, b5, rfl⟩ := six_bytes hl
    rcases decodeRead_six b0 b1 b2 b3 b4 b5 with ⟨c0, c1, c2, c3, c4, c5, rfl, rfl, rfl, rfl, rfl, rfl, hd⟩ | ⟨hb, hd⟩
    · rw [hd]
      simp [exec, execSetrgb, hc, decodeResult, acceptRead, commandColor, HexChar.pair]
    · rw [hd, decodeResult_invalidDigit hb]
      simp [exec, execIllegalInvaliddigit, acceptError, hc, acceptRead]
  · rw [decodeRead_length hl, decodeResult_length hl]
    simp [exec, execIllegalWronglength, hne, acceptError, hc, acceptRead]

/-! ### The ready block -/

theorem ne_diag_of_ready {s : State} (hc : s.cmdReady = true) : s.seq ≠ .diag := by
  simp [((cmdReady_iff s).1 hc).1]

/-- A ready block that takes no read stays as it is (R174, R178). -/
theorem move_of_ready {s : State} (hc : s.cmdReady = true) : Move s s :=
  .stay (ne_diag_of_ready hc) ((cmdReady_iff s).1 hc).2

/-! ### The transmitter's edge -/

theorem underrunSeen_iff (s : State) : s.underrunSeen = true ↔ s.seq = .render ∧ s.port.underrun = true := by
  simp [State.underrunSeen]

/-- A tick of the symbol of the present bit is a move. -/
theorem move_symbolTick {s : State} (hq : s.seq ≠ .diag) (hp : s.phase = .hi ∨ s.phase = .lo) :
    Move s (symbolTick s.presentBit s) := by
  have hi : s.phase ≠ .idle := by rcases hp with hp | hp <;> simp [hp]
  rcases symbolTick_cases s.presentBit s with
    ⟨-, hu, e⟩ | ⟨-, hu, ht, e⟩ | ⟨hp, hu, ht, e⟩ | ⟨hp, hu, ht, e⟩ | ⟨hp', -⟩
  · obtain ⟨hr, hu⟩ := (underrunSeen_iff s).1 hu
    exact e ▸ .abort hr hp hu
  · exact e ▸ .count hq hi (fun _ => hu) ht
  · exact e ▸ .highEnd hq hp hu ht
  · rcases endSymbol_cases s with ⟨hb, e'⟩ | ⟨hb, e'⟩ <;> rw [e, e']
    · exact .lastSymbolEnd hq hp hu ht hb
    · exact .symbolEnd hq hp hu ht hb
  · rcases hp with hp | hp <;> simp [hp] at hp'

/-- A tick of the reset interval is a move. -/
theorem move_gapTick {s : State} (hq : s.seq ≠ .diag) (hp : s.phase = .gap) : Move s (gapTick s) := by
  rcases gapTick_cases s with ⟨-, ht, e⟩ | ⟨-, ht, e⟩ | ⟨hp', -⟩
  · exact e ▸ .count hq (by simp [hp]) (absurd hp) ht
  · rcases endGap_cases s with ⟨hr, h1, e'⟩ | ⟨hn, e'⟩ <;> rw [e, e']
    · exact .renderEnd hr hp h1
    · exact .gapEnd hq hn hp ht
  · exact absurd hp hp'

theorem move_renderTick {s : State} (hq : s.seq ≠ .diag) : Move s (renderTick s) := by
  rcases renderTick_cases s with ⟨hp, e⟩ | ⟨hp, e⟩ | ⟨hp, e⟩ <;> rw [e]
  · exact move_symbolTick hq hp
  · exact move_gapTick hq hp
  · exact .stay hq hp

theorem presentBit_startRender (c : Color) (s : State) : (startRender c s).presentBit = firstBit c := by
  rw [State.presentBit, startRender_sr, Color.word, BitVec.getLsbD_append, BitVec.getLsbD_append]
  simp [firstBit]

theorem presentBit_shiftOut (s : State) : s.shiftOut.presentBit = s.nextBit := by
  simp [State.presentBit, State.nextBit]

/-! ### The step -/

theorem step_of_fetch_some {s : State} {i : Instr} (hv : s.params.Valid) (hr : s.port.rst = false)
    (hf : fetch s = .ok (some i)) : step s = endEdge (exec i s) := by
  simp [step, hv, hr, hf]

theorem step_of_fetch_none {s : State} (hv : s.params.Valid) (hr : s.port.rst = false) (hf : fetch s = .ok none) :
    step s = .next (plainEdge s).advance := by
  simp [step, hv, hr, hf]

theorem plainEdge_of_ne_diag {s : State} (hq : s.seq ≠ .diag) : plainEdge s = s := by
  rcases h : s.seq with _ | _ | _ <;> simp_all [plainEdge]

/-- An edge at a LINE element takes its tick, in `WAIT` as in `RENDER`; with none there, it changes nothing. -/
theorem step_of_lineElement {s : State} (hv : s.params.Valid) (hr : s.port.rst = false) (hq : s.seq ≠ .diag)
    (hf : fetch s = .ok (lineElement s)) : step s = .next (renderTick s).advance := by
  rcases hp : s.phase with _ | _ | _ | _
  case idle =>
    rw [step_of_fetch_none hv hr (by rw [hf, lineElement, hp]), plainEdge_of_ne_diag hq, renderTick, hp]
  case hi | lo =>
    rw [step_of_fetch_some hv hr (by rw [hf, lineElement, hp])]
    rcases hb : s.presentBit with _ | _ <;> simp [exec, execSym0, execSym1, endEdge, renderTick, hp, hb]
  case gap =>
    rw [step_of_fetch_some hv hr (by rw [hf, lineElement, hp])]
    simp [exec, execReset, endEdge, renderTick, hp]

/-- Every step of a machine with valid parameters is the end of an `Edge`. -/
theorem exists_edge {s : State} (hv : s.params.Valid) : ∃ u, Edge s u ∧ step s = .next u.advance := by
  rcases hr : s.port.rst with _ | _
  case true => exact ⟨_, .reset hr, by simp [step, hv, hr]⟩
  rcases fetch_cases hv with ⟨hc, hval, hl, hf⟩ | ⟨hc, -, hl, hf⟩ | ⟨hc, hval, hf⟩ | ⟨hq, hf⟩ | ⟨hc, hq, hf⟩
  · refine ⟨_, .accept _ hr hc (accepted_of_presented hr hc hval hl), ?_⟩
    rw [step_of_fetch_some hv hr hf, exec_decodeRead hc (by simpa [Memory.readBytes] using hl), endEdge]
  · exact ⟨s, .move hr (accepted_of_not_presented (.inr hl)) (move_of_ready hc),
      by rw [step_of_fetch_none hv hr hf, plainEdge_of_ne_diag (ne_diag_of_ready hc)]⟩
  · refine ⟨s, .move hr (accepted_of_not_presented (.inl hval)) (move_of_ready hc), ?_⟩
    rcases drivenChar_cases s.port with hd | ⟨c, -, -, hd⟩ <;> rw [hd] at hf
    · rw [step_of_fetch_none hv hr hf, plainEdge_of_ne_diag (ne_diag_of_ready hc)]
    · rw [step_of_fetch_some hv hr hf, exec_char, endEdge]
  · have ha : accepted s = none := accepted_of_not_ready (by simp [State.cmdReady, hq])
    exact ⟨_, .move hr ha (.diagReturn hq), by rw [step_of_fetch_none hv hr hf, plainEdge, hq]⟩
  · exact ⟨_, .move hr (accepted_of_not_ready hc) (move_renderTick hq), step_of_lineElement hv hr hq hf⟩

/-- What a step that answers has done. -/
theorem edge_of_step {s t : State} (h : step s = .next t) : s.params.Valid ∧ ∃ u, Edge s u ∧ t = u.advance := by
  have hv := valid_of_step h
  obtain ⟨u, hu, e⟩ := exists_edge hv
  exact ⟨hv, u, hu, Host.Outcome.next.inj (h.symm.trans e)⟩

/-! ## The writers of `err`, `fail` and `sr` -/

/-- No move writes `err` (R22). -/
theorem Move.err_eq {s u : State} (h : Move s u) : u.err = s.err := by
  cases h <;> rfl

/-- While a symbol is sent with no underrun seen, no abort is due. -/
theorem abort_not_due {s : State} (h : s.phase ≠ .gap → s.underrunSeen = false) :
    ¬(s.seq = .render ∧ (s.phase = .hi ∨ s.phase = .lo) ∧ s.port.underrun = true) := by
  rintro ⟨hq, hp, hu⟩
  have hg : s.phase ≠ .gap := by rcases hp with hp | hp <;> simp [hp]
  exact absurd ((underrunSeen_iff s).2 ⟨hq, hu⟩) (by simp [h hg])

/-- Of the moves only the abort writes `fail` (R27, R143). -/
theorem Move.fail_eq {s u : State} (h : Move s u) :
    u.fail = if s.seq = .render ∧ (s.phase = .hi ∨ s.phase = .lo) ∧ s.port.underrun = true then true else s.fail := by
  cases h with
  | abort hq hp hu => rw [if_pos ⟨hq, hp, hu⟩, raise_transmission_fail]
  | count _ _ hu => exact (if_neg (abort_not_due hu)).symm
  | highEnd _ _ hu => exact (if_neg (abort_not_due fun _ => hu)).symm
  | lastSymbolEnd _ _ hu => exact (if_neg (abort_not_due fun _ => hu)).symm
  | symbolEnd _ _ hu => exact (if_neg (abort_not_due fun _ => hu)).symm
  | stay _ hp => simp [hp]
  | diagReturn hq => simp [hq]
  | renderEnd _ hp => simp [hp]
  | gapEnd _ _ hp => simp [hp]

/-- Settles O39: reset clears `err`, an accepted read writes it where its decode fails, and no move writes it. -/
theorem errIsTheLastDecodeError : Obligations.ErrIsTheLastDecodeError := by
  intro s t h
  obtain ⟨-, u, hu, rfl⟩ := edge_of_step h
  cases hu with
  | reset hr => simp [hr]
  | accept d hr _ ha => rcases d with (_ | _) | c <;> simp [hr, ha, acceptRead, errOf]
  | move hr ha hm => simp [hr, ha, hm.err_eq]

/-- Settles O40: reset and the load clear `fail`; of the moves only the abort writes it. -/
theorem failIsTheLastRendersUnderrun : Obligations.FailIsTheLastRendersUnderrun := by
  intro s t h
  obtain ⟨-, u, hu, rfl⟩ := edge_of_step h
  cases hu with
  | reset hr => simp [hr]
  | accept d hr hc ha =>
    have hq : s.seq = .wait := ((cmdReady_iff s).1 hc).1
    rcases d with e | c <;> simp [hr, hq, ha, acceptRead]
  | move hr ha hm => simp [hr, ha, hm.fail_eq]

/-- Settles O41: of the moves only the abort and the two ends of a symbol write `sr`. -/
theorem onlyLoadShiftAbortAndResetWriteSr : Obligations.OnlyLoadShiftAbortAndResetWriteSr := by
  intro s t h hne
  obtain ⟨-, u, hu, rfl⟩ := edge_of_step h
  cases hu with
  | reset hr => exact .inl ⟨rfl, .inl hr⟩
  | accept d _ _ ha =>
    rcases d with e | c
    · exact absurd rfl hne
    · exact .inr (.inr ⟨c, ha, rfl⟩)
  | move _ _ hm =>
    cases hm with
    | abort hq hp hu => exact .inl ⟨rfl, .inr ⟨hq, hp, hu, rfl⟩⟩
    | lastSymbolEnd _ hp _ ht => exact .inr (.inl ⟨hp, ht, rfl, rfl⟩)
    | symbolEnd _ hp _ ht => exact .inr (.inl ⟨hp, ht, rfl, rfl⟩)
    | _ => exact absurd rfl hne

end Sys2Proof.Machine

namespace Sys2Proof.Safety

open Sys2Proof.Machine

/-! ## The invariant of R35 -/

/-- A frame is being sent: 1 to 24 of its symbols are left, and `sr` is empty below their bits (R35, clauses 7 and 8). -/
def FrameInFlight (s : State) : Prop :=
  1 ≤ s.bitcnt.toNat ∧ s.bitcnt.toNat ≤ 24 ∧ ∀ k, k < 24 - s.bitcnt.toNat → s.sr.getLsbD k = false

theorem tReset_pos {p : Params} (h : p.Valid) : 1 ≤ p.tReset := by
  obtain ⟨-, ⟨h, -⟩, -⟩ := p.valid_iff.1 h
  exact h

section
variable {s : State}

/-! The invariant, built phase by phase. -/

theorem Inv.of_idle (hp : s.phase = .idle) (hd : s.seq = .diag → s.err ≠ .none) (hq : s.seq ≠ .render)
    (hr : s.tick = 0 ∧ s.bitcnt = 0 ∧ s.sr = 0) : Inv s where
  diag h := ⟨hp, hd h⟩
  render h := absurd h hq
  wait _ := .inl hp
  idle _ := hr
  gap h := by simp [hp] at h
  hi h := by simp [hp] at h
  lo h := by simp [hp] at h
  fail _ := .inr hp
  dout h := by simp [State.dout, hp] at h
  tickWidth := hr.1 ▸ Nat.two_pow_pos _

theorem Inv.of_gap (hv : s.params.Valid) (hp : s.phase = .gap) (hq : s.seq ≠ .diag)
    (ht : 1 ≤ s.tick ∧ s.tick ≤ s.params.tReset) (hr : s.bitcnt = 0 ∧ s.sr = 0) : Inv s where
  diag h := absurd h hq
  render _ := by simp [hp]
  wait _ := .inr hp
  idle h := by simp [hp] at h
  gap _ := ⟨ht.1, ht.2, hr⟩
  hi h := by simp [hp] at h
  lo h := by simp [hp] at h
  fail _ := .inl hp
  dout h := by simp [State.dout, hp] at h
  tickWidth := ht.2.trans_lt (ticks_lt hv false).2.2

theorem Inv.of_hi (hv : s.params.Valid) (hp : s.phase = .hi) (hq : s.seq = .render) (hf : s.fail = false)
    (ht : 1 ≤ s.tick ∧ s.tick ≤ highTicks s.params s.presentBit) (hr : FrameInFlight s) : Inv s where
  diag h := by simp [hq] at h
  render _ := by simp [hp]
  wait h := by simp [hq] at h
  idle h := by simp [hp] at h
  gap h := by simp [hp] at h
  hi _ := ⟨hr.1, hr.2.1, ht.1, ht.2, hr.2.2⟩
  lo h := by simp [hp] at h
  fail h := by simp [hf] at h
  dout _ := hq
  tickWidth := ht.2.trans_lt (ticks_lt hv _).1

theorem Inv.of_lo (hv : s.params.Valid) (hp : s.phase = .lo) (hq : s.seq = .render) (hf : s.fail = false)
    (ht : 1 ≤ s.tick ∧ s.tick ≤ lowTicks s.params s.presentBit) (hr : FrameInFlight s) : Inv s where
  diag h := by simp [hq] at h
  render _ := by simp [hp]
  wait h := by simp [hq] at h
  idle h := by simp [hp] at h
  gap h := by simp [hp] at h
  hi h := by simp [hp] at h
  lo _ := ⟨hr.1, hr.2.1, ht.1, ht.2, hr.2.2⟩
  fail h := by simp [hf] at h
  dout h := by simp [State.dout, hp] at h
  tickWidth := ht.2.trans_lt (ticks_lt hv _).2.1

/-- The end of an edge changes no register. -/
theorem Inv.advance (h : Inv s) : Inv s.advance :=
  ⟨h.diag, h.render, h.wait, h.idle, h.gap, h.hi, h.lo, h.fail, h.dout, h.tickWidth⟩

/-! What it says while a symbol is sent. -/

theorem Inv.seq_of_symbol (h : Inv s) (hp : s.phase = .hi ∨ s.phase = .lo) : s.seq = .render := by
  rcases hq : s.seq with _ | _ | _
  · have := h.wait hq
    rcases hp with hp | hp <;> simp [hp] at this
  · have := (h.diag hq).1
    rcases hp with hp | hp <;> simp [hp] at this
  · rfl

theorem Inv.fail_of_symbol (h : Inv s) (hp : s.phase = .hi ∨ s.phase = .lo) : s.fail = false := by
  rcases hf : s.fail with _ | _
  · rfl
  · have := h.fail hf
    rcases hp with hp | hp <;> simp [hp] at this

theorem Inv.frameInFlight (h : Inv s) (hp : s.phase = .hi ∨ s.phase = .lo) : FrameInFlight s := by
  rcases hp with hp | hp
  · obtain ⟨h1, h2, -, -, h3⟩ := h.hi hp
    exact ⟨h1, h2, h3⟩
  · obtain ⟨h1, h2, -, -, h3⟩ := h.lo hp
    exact ⟨h1, h2, h3⟩

/-! Each symbol shifts `sr`, and the last one empties it. -/

/-- A shift left by one empties one bit more. -/
theorem getLsbD_shiftLeft_one_eq_false {w : Frame} {n : Nat} (h : ∀ k, k < n → w.getLsbD k = false) :
    ∀ k, k < n + 1 → (w <<< 1).getLsbD k = false := by
  intro k hk
  rw [BitVec.getLsbD_shiftLeft]
  rcases k with _ | k
  · simp
  · simp [h k (by omega)]

theorem FrameInFlight.shiftOut (h : FrameInFlight s) (hb : s.bitcnt ≠ 1) : FrameInFlight s.shiftOut := by
  obtain ⟨h1, h2, h3⟩ := h
  have hb : s.bitcnt.toNat ≠ 1 := fun e => hb (BitVec.eq_of_toNat_eq e)
  have hn : s.shiftOut.bitcnt.toNat = s.bitcnt.toNat - 1 := by
    rw [shiftOut_bitcnt]
    bv_omega
  exact ⟨by omega, by omega, fun k hk => getLsbD_shiftLeft_one_eq_false h3 k (by omega)⟩

/-- After the 24th shift `sr` is 0 (R23). -/
theorem FrameInFlight.sr_shiftOut (h : FrameInFlight s) (hb : s.bitcnt = 1) : s.shiftOut.sr = 0 := by
  obtain ⟨-, -, h3⟩ := h
  rw [hb] at h3
  have h24 : ∀ k, k < 24 → s.shiftOut.sr.getLsbD k = false := getLsbD_shiftLeft_one_eq_false h3
  exact BitVec.eq_of_getLsbD_eq fun k hk => (h24 k hk).trans BitVec.getLsbD_zero.symm

end

end Sys2Proof.Safety

namespace Sys2Proof.Machine

open Sys2Proof.Safety

/-! ### Every edge keeps the invariant -/

section
variable {s : State}

theorem inv_resetRegisters (hv : s.params.Valid) : Inv (resetRegisters s) :=
  .of_gap hv rfl (by simp) ⟨tReset_pos hv, le_rfl⟩ ⟨rfl, rfl⟩

theorem inv_startRender (hv : s.params.Valid) (c : Color) : Inv (startRender c s) :=
  .of_hi hv rfl rfl rfl (by simp [presentBit_startRender, highTicks_pos hv])
    ⟨by simp, by simp, by simp⟩

theorem inv_raise_decode (h : Inv s) (hp : s.phase = .idle) (e : DecodeError) : Inv (raise (.decode e) s) :=
  .of_idle hp (fun _ => by cases e <;> simp [errOf]) (by simp) (h.idle hp)

theorem inv_acceptRead (hv : s.params.Valid) (h : Inv s) (hc : s.cmdReady = true) (d : Except DecodeError Color) :
    Inv (acceptRead d s) := by
  cases d with
  | ok c => exact inv_startRender hv c
  | error e => exact inv_raise_decode h ((cmdReady_iff s).1 hc).2 e

/-- A tick that is not the last of its phase keeps the invariant. -/
theorem inv_countDown (hv : s.params.Valid) (h : Inv s) (hp : s.phase ≠ .idle) (ht : 1 < s.tick) : Inv s.countDown := by
  have h1 : 1 ≤ s.countDown.tick := Nat.le_sub_of_add_le ht
  have h2 : s.countDown.tick ≤ s.tick := Nat.sub_le _ _
  rcases hp' : s.phase with _ | _ | _ | _
  case idle => exact absurd hp' hp
  case hi =>
    obtain ⟨-, -, -, hle, -⟩ := h.hi hp'
    exact .of_hi hv hp' (h.seq_of_symbol (.inl hp')) (h.fail_of_symbol (.inl hp')) ⟨h1, h2.trans hle⟩
      (h.frameInFlight (.inl hp'))
  case lo =>
    obtain ⟨-, -, -, hle, -⟩ := h.lo hp'
    exact .of_lo hv hp' (h.seq_of_symbol (.inr hp')) (h.fail_of_symbol (.inr hp')) ⟨h1, h2.trans hle⟩
      (h.frameInFlight (.inr hp'))
  case gap =>
    obtain ⟨-, hle, hr⟩ := h.gap hp'
    exact .of_gap hv hp' (fun hq => hp (h.diag hq).1) ⟨h1, h2.trans hle⟩ hr

/-- A move keeps the invariant. -/
theorem Move.inv {u : State} (hv : s.params.Valid) (h : Inv s) (hm : Move s u) : Inv u := by
  cases hm with
  | stay => exact h
  | diagReturn hq =>
    have hp := (h.diag hq).1
    exact .of_idle hp (by simp) (by simp) (h.idle hp)
  | abort hq => exact .of_gap hv rfl (by simp [hq]) ⟨tReset_pos hv, le_rfl⟩ ⟨rfl, rfl⟩
  | count _ hp _ ht => exact inv_countDown hv h hp ht
  | highEnd _ hp =>
    exact .of_lo hv rfl (h.seq_of_symbol (.inl hp)) (h.fail_of_symbol (.inl hp)) ⟨lowTicks_pos hv _, le_rfl⟩
      (h.frameInFlight (.inl hp))
  | lastSymbolEnd hq hp _ _ hb =>
    exact .of_gap hv rfl hq ⟨tReset_pos hv, le_rfl⟩ ⟨by simp [hb], (h.frameInFlight (.inr hp)).sr_shiftOut hb⟩
  | symbolEnd _ hp _ _ hb =>
    have ht : highTicks s.params s.nextBit ≤ highTicks s.params s.shiftOut.presentBit := by rw [presentBit_shiftOut]
    exact .of_hi hv rfl (h.seq_of_symbol (.inr hp)) (h.fail_of_symbol (.inr hp)) ⟨highTicks_pos hv _, ht⟩
      ((h.frameInFlight (.inr hp)).shiftOut hb)
  | renderEnd _ hp => exact .of_idle rfl (by simp) (by simp) ⟨rfl, (h.gap hp).2.2⟩
  | gapEnd hq hn hp ht =>
    obtain ⟨h1, -, hr⟩ := h.gap hp
    exact .of_idle rfl (absurd · hq) (hn.resolve_right (absurd (le_antisymm ht h1))) ⟨rfl, hr⟩

theorem Edge.inv {u : State} (hv : s.params.Valid) (h : Inv s) (he : Edge s u) : Inv u := by
  cases he with
  | reset => exact inv_resetRegisters hv
  | accept d _ hc => exact inv_acceptRead hv h hc d
  | move _ _ hm => exact hm.inv hv h

end

/-- Settles O36, by the cases of what the edge does. -/
theorem stepKeepsTheInvariant : Obligations.StepKeepsTheInvariant := by
  intro s t h hs
  obtain ⟨hv, u, hu, rfl⟩ := edge_of_step hs
  exact (hu.inv hv h).advance

/-- Settles O37: `State.reset` is what a reset edge leaves under the default parameters. -/
theorem resetStateHasTheInvariant : Obligations.ResetStateHasTheInvariant :=
  ⟨inv_resetRegisters (s := State.reset) Params.default_valid, rfl⟩

/-- Settles O43: of the edges that leave the block in `WAIT` and `GAP`, the invariant shuts out all but reset and a tick of
that same gap. -/
theorem waitingInGapComesFromReset : Obligations.WaitingInGapComesFromReset := by
  intro s t h hs hq hp
  obtain ⟨-, u, hu, rfl⟩ := edge_of_step hs
  cases hu with
  | reset hr => exact .inl hr
  | accept d => rcases d with e | c <;> simp [acceptRead] at hq
  | move _ _ hm =>
    cases hm with
    | stay _ hi => simp [hi] at hp
    | diagReturn hd => simp [(h.diag hd).1] at hp
    | abort hr => simp [hr] at hq
    | count _ _ _ ht => exact .inr ⟨hq, hp, ht⟩
    | lastSymbolEnd _ hl => simp [h.seq_of_symbol (.inr hl)] at hq
    | highEnd | symbolEnd | renderEnd | gapEnd => simp at hp

/-! ## The frames of the instructions -/

/-- What no instruction writes: the parameters, the coming inputs and the number of the interval. -/
structure SameEnvironment (s t : State) : Prop where
  params : t.params = s.params
  inputs : t.inputs = s.inputs
  edge : t.edge = s.edge

/-- The frame every instruction has, beside what its own family keeps: every byte of every coming buffer reads the same. -/
theorem frame_of_sameEnvironment {s t : State} {P : Prop} (h : SameEnvironment s t ∧ P) :
    t.params = s.params ∧ t.edge = s.edge ∧
      (∀ k a, (inputAt t k).cmdData.read a = (inputAt s k).cmdData.read a) ∧ t.inputs = s.inputs ∧ P :=
  have ⟨henv, hP⟩ := h
  ⟨henv.params, henv.edge, fun k a => by rw [inputAt_congr henv.inputs henv.params henv.edge], henv.inputs, hP⟩

section
variable (s : State)

theorem symbolTick_frame (b : Bool) :
    SameEnvironment s (symbolTick b s) ∧ (symbolTick b s).seq = s.seq ∧ (symbolTick b s).err = s.err := by
  rcases symbolTick_cases b s with ⟨-, -, e⟩ | ⟨-, -, -, e⟩ | ⟨-, -, -, e⟩ | ⟨-, -, -, e⟩ | ⟨-, e⟩ <;> rw [e]
  case inr.inr.inr.inl =>
    rcases endSymbol_cases s with ⟨-, e'⟩ | ⟨-, e'⟩ <;> rw [e'] <;> exact ⟨⟨rfl, rfl, rfl⟩, rfl, rfl⟩
  all_goals exact ⟨⟨rfl, rfl, rfl⟩, rfl, rfl⟩

theorem gapTick_frame :
    SameEnvironment s (gapTick s) ∧ (gapTick s).err = s.err ∧ (gapTick s).sr = s.sr ∧
      (gapTick s).bitcnt = s.bitcnt ∧ (gapTick s).fail = s.fail := by
  rcases gapTick_cases s with ⟨-, -, e⟩ | ⟨-, -, e⟩ | ⟨-, e⟩ <;> rw [e]
  case inr.inl =>
    rcases endGap_cases s with ⟨-, -, e'⟩ | ⟨-, e'⟩ <;> rw [e'] <;> exact ⟨⟨rfl, rfl, rfl⟩, rfl, rfl, rfl, rfl⟩
  all_goals exact ⟨⟨rfl, rfl, rfl⟩, rfl, rfl, rfl, rfl⟩

theorem renderTick_frame : SameEnvironment s (renderTick s) ∧ (renderTick s).err = s.err := by
  rcases renderTick_cases s with ⟨-, e⟩ | ⟨-, e⟩ | ⟨-, e⟩ <;> rw [e]
  · obtain ⟨henv, -, herr⟩ := symbolTick_frame s s.presentBit
    exact ⟨henv, herr⟩
  · obtain ⟨henv, herr, -⟩ := gapTick_frame s
    exact ⟨henv, herr⟩
  · exact ⟨⟨rfl, rfl, rfl⟩, rfl⟩

theorem acceptError_frame (e : DecodeError) :
    SameEnvironment s (acceptError e s) ∧ (acceptError e s).sr = s.sr ∧ (acceptError e s).bitcnt = s.bitcnt ∧
      (acceptError e s).phase = s.phase ∧ (acceptError e s).tick = s.tick ∧ (acceptError e s).fail = s.fail := by
  rcases acceptError_cases e s with ⟨-, h⟩ | ⟨-, h⟩ <;> rw [h] <;> exact ⟨⟨rfl, rfl, rfl⟩, rfl, rfl, rfl, rfl, rfl⟩

end

/-- Settles O26, row by row: each row's frame is that of the operation it is made of. -/
theorem instructionFrames : Obligations.InstructionFrames := by
  intro i s t h
  cases i with
  | setrgb rh rl gh gl bh bl =>
    simp only [exec, execSetrgb] at h
    split at h <;> obtain rfl := Host.Outcome.next.inj h <;> exact frame_of_sameEnvironment ⟨⟨rfl, rfl, rfl⟩, rfl⟩
  | illegalWronglength len =>
    simp only [exec, execIllegalWronglength] at h
    split at h <;> obtain rfl := Host.Outcome.next.inj h
    · exact frame_of_sameEnvironment ⟨⟨rfl, rfl, rfl⟩, ⟨rfl, rfl, rfl, rfl, rfl⟩⟩
    · exact frame_of_sameEnvironment (acceptError_frame s _)
  | illegalInvaliddigit b0 b1 b2 b3 b4 b5 =>
    obtain rfl := Host.Outcome.next.inj h
    exact frame_of_sameEnvironment (acceptError_frame s _)
  | sym0 | sym1 =>
    obtain rfl := Host.Outcome.next.inj h
    exact frame_of_sameEnvironment (symbolTick_frame s _)
  | reset =>
    obtain rfl := Host.Outcome.next.inj h
    exact frame_of_sameEnvironment (gapTick_frame s)
  | render c =>
    rcases execRender_cases c s with ⟨-, e⟩ | ⟨-, e⟩ <;> obtain rfl := Host.Outcome.next.inj (e.symm.trans h)
    · exact frame_of_sameEnvironment ⟨⟨rfl, rfl, rfl⟩, rfl⟩
    · exact frame_of_sameEnvironment (renderTick_frame s)
  | _ =>
    obtain rfl := Host.Outcome.next.inj h
    exact frame_of_sameEnvironment ⟨⟨rfl, rfl, rfl⟩, rfl⟩

/-! ## The output ports -/

theorem diagCode_inj {s : State} (e : Err) : s.diagCode = e.code ↔ s.err = e := by
  rw [State.diagCode]
  cases s.err <;> cases e <;> decide

/-- Settles O45: each port tests the registers the table names; the codes of `err` differ. -/
theorem outputPortsAsTabled : Obligations.OutputPortsAsTabled := by
  intro s
  refine ⟨?_, cmdReady_iff s, ?_, diagCode_inj .none, diagCode_inj .wrongLength, diagCode_inj .invalidDigit, ?_, .rfl, ?_⟩
  · simp [State.dout]
  · simp [State.diagValid]
  · simp [State.done, and_assoc]
  · simp [State.busy]

end Sys2Proof.Machine

/-! The obligations of 20_memory.md: the command buffer's form, what DEC's wires say of six characters, the runs of the
transmitter from an accept edge to the return to `WAIT`, and the reference receiver on a whole trace. -/

namespace Sys2Proof.Machine

open Sys2Proof.Safety

/-! ## Commands while the block is busy, and six characters on the port -/

/-- Settles O18: the two guards of the command rows test `cmd_ready`. -/
theorem commandsWhileBusyChangeNothing : Obligations.CommandsWhileBusyChangeNothing := by
  intro s hc
  have he : ∀ e, acceptError e s = s := fun e => if_neg (by simp [hc])
  refine ⟨fun _ _ _ _ _ _ => ?_, fun len => ?_, fun _ _ _ _ _ _ => ?_⟩
  · simp [exec, execSetrgb, hc]
  · by_cases hl : len = 0 <;> simp [exec, execIllegalWronglength, hl, he]
  · simp [exec, execIllegalInvaliddigit, he]

/-- `decode` of six characters is the Color they spell (R107). -/
theorem decodeResult_codes (c0 c1 c2 c3 c4 c5 : HexChar) :
    decodeResult [c0.code, c1.code, c2.code, c3.code, c4.code, c5.code] = .ok (commandColor c0 c1 c2 c3 c4 c5) := by
  simp [decodeResult, commandColor, HexChar.pair]

/-- The rows of any characters, one after the other, write nothing (R111). -/
theorem execAll_chars (cs : List HexChar) (s : State) : execAll (cs.map HexChar.instr) s = .next s := by
  induction cs with
  | nil => rfl
  | cons c cs ih => rw [List.map_cons, execAll, exec_char]; exact ih

/-- Settles O15: DEC's outputs are `decode` of the six bytes, and a character's row writes nothing. -/
theorem sixCharacterRowsSpellTheColor : Obligations.SixCharacterRowsSpellTheColor := by
  intro s c0 c1 c2 c3 c4 c5 hl hb
  refine ⟨?_, execAll_chars [c0, c1, c2, c3, c4, c5] s⟩
  rw [decOutputs_eq, hl, hb, decodeResult_codes]
  rfl

/-! ## The command buffer's form -/

/-- A write adds no index but its own. -/
theorem Memory.mem_write {m : Memory} {a : Nat} {b : Byte} {c : Host.Cell} (h : c ∈ m.write a b) :
    c.1 = a ∨ c ∈ m := by
  induction m with
  | nil =>
    rw [Memory.write] at h
    split at h
    · simp at h
    · exact .inl (by simp_all)
  | cons d m ih =>
    obtain ⟨k, v⟩ := d
    rw [Memory.write] at h
    split at h
    · split at h
      · exact .inr h
      · rcases List.mem_cons.1 h with rfl | h
        · exact .inl rfl
        · exact .inr h
    · split at h
      · split at h
        · exact .inr (List.mem_cons_of_mem _ h)
        · rcases List.mem_cons.1 h with rfl | h
          · exact .inl rfl
          · exact .inr (List.mem_cons_of_mem _ h)
      · rcases List.mem_cons.1 h with rfl | h
        · exact .inr List.mem_cons_self
        · exact (ih h).imp_right (List.mem_cons_of_mem _)

/-- A buffer of `bs` lists no index past its last byte. -/
theorem Memory.index_lt_of_mem_ofBytesAt {bs : List Byte} {a : Nat} {c : Host.Cell} (h : c ∈ Memory.ofBytesAt a bs) :
    c.1 < a + bs.length := by
  induction bs generalizing a with
  | nil => simp [Memory.ofBytesAt] at h
  | cons b bs ih =>
    rw [List.length_cons]
    rcases Memory.mem_write h with h | h
    · omega
    · have := ih h
      omega

/-- A free input is one the ports can carry (R31), whatever the parameter set. -/
theorem freeInput_wf (p : Params) (n : Nat) : (freeInput p n).wf p = true := by
  have hi : ∀ c ∈ (freeInput p n).cmdData, c.1 < p.lmax := fun c hc => by
    simpa using Memory.index_lt_of_mem_ofBytesAt hc
  simp only [Input.wf, Bool.and_eq_true, decide_eq_true_eq, List.all_eq_true]
  exact ⟨⟨Nat.mod_lt _ (Nat.two_pow_pos _), Memory.wf_ofBytes _⟩, hi⟩

/-! ## What the environment drives along a run -/

theorem sameEnvironment_acceptRead (d : Except DecodeError Color) (s : State) : SameEnvironment s (acceptRead d s) := by
  cases d <;> exact ⟨rfl, rfl, rfl⟩

/-- An edge writes none of the environment's fields but at its end. -/
theorem Edge.sameEnvironment {s u : State} (h : Edge s u) : SameEnvironment s u := by
  cases h with
  | reset => exact ⟨rfl, rfl, rfl⟩
  | accept d => exact sameEnvironment_acceptRead d s
  | move _ _ hm => cases hm <;> exact ⟨rfl, rfl, rfl⟩

/-- A step spends one input. -/
theorem inputAt_of_step {s t : State} (h : step s = .next t) (k : Nat) : inputAt t k = inputAt s (k + 1) := by
  obtain ⟨-, u, hu, rfl⟩ := edge_of_step h
  obtain ⟨hp, hi, he⟩ := hu.sameEnvironment
  rw [inputAt_advance, inputAt_congr hi hp he]

/-- Settles O38: a step writes no buffer, and a free one is built from its bytes. -/
theorem buffersStayCanonical : Obligations.BuffersStayCanonical := by
  refine ⟨fun p n _ => freeInput_wf p n, fun s t hwf h k => ?_⟩
  rw [inputAt_of_step h]
  exact hwf (k + 1)

end Sys2Proof.Machine

namespace Sys2Proof

/-! ## The bits of a frame -/

/-- The bits a frame register sends over its first `n` symbols, bit 23 first (R23). -/
def sentBits (n : Nat) (w : Frame) : List Bool := (List.range n).map fun k => w.getLsbD (23 - k)

/-- The top bit, then what the shifted register sends (R140). -/
theorem sentBits_succ {n : Nat} (h : n < 24) (w : Frame) :
    sentBits (n + 1) w = w.getLsbD 23 :: sentBits n (w <<< 1) := by
  have hk : ∀ k ∈ List.range n, w.getLsbD (23 - (k + 1)) = (w <<< 1).getLsbD (23 - k) := by
    intro k hk
    have hk := List.mem_range.1 hk
    rw [BitVec.getLsbD_shiftLeft, show 23 - k - 1 = 23 - (k + 1) by omega]
    simp [show 23 - k < 24 by omega, show 23 - k ≠ 0 by omega]
  rw [sentBits, List.range_succ_eq_map, List.map_cons, List.map_map, Nat.sub_zero, sentBits]
  exact congrArg _ (List.map_congr_left hk)

/-- The bits of `F = r:g:b` (R75). -/
theorem getLsbD_word (c : Color) (k : Nat) :
    c.word.getLsbD k = if k < 8 then c.b.getLsbD k else if k - 8 < 8 then c.g.getLsbD (k - 8) else c.r.getLsbD (k - 8 - 8) := by
  rw [Color.word, BitVec.getLsbD_append, BitVec.getLsbD_append]

/-- A whole frame sends `frame_bits` (R75, R132). -/
theorem sentBits_word (c : Color) : sentBits 24 c.word = frameBits c := by
  simp only [sentBits, getLsbD_word]
  rfl

/-- Putting `n` sent bits together gives the top `n` bits of the register. -/
theorem wordOfBits_sentBits {n : Nat} (h : n ≤ 24) (w : Frame) : wordOfBits (sentBits n w) = w >>> (24 - n) := by
  induction n with
  | zero =>
    rw [BitVec.ushiftRight_eq_zero (by omega)]
    rfl
  | succ n ih =>
    have hn : sentBits (n + 1) w = sentBits n w ++ [w.getLsbD (23 - n)] := by simp [sentBits, List.range_succ]
    rw [hn, wordOfBits, List.foldl_append, ← wordOfBits, ih (by omega), List.foldl_cons, List.foldl_nil,
      show 24 - n = (24 - (n + 1)) + 1 by omega, show 23 - n = 24 - (n + 1) by omega]
    generalize 24 - (n + 1) = m
    apply BitVec.eq_of_getLsbD_eq
    intro i hi
    simp only [BitVec.getLsbD_or, BitVec.getLsbD_shiftLeft, BitVec.getLsbD_ushiftRight]
    rcases i with _ | i
    · cases w.getLsbD m <;> simp
    · rw [show m + 1 + (i + 1 - 1) = m + (i + 1) by omega]
      cases w.getLsbD m <;> simp [hi]

/-- The three channels of `F` are those of the Color. -/
theorem ofWord_word (c : Color) : Color.ofWord c.word = c := by
  have hr : c.word.extractLsb' 16 8 = c.r := BitVec.eq_of_getLsbD_eq fun i hi => by
    rw [BitVec.getLsbD_extractLsb', getLsbD_word, if_neg (by omega), if_neg (by omega), show 16 + i - 8 - 8 = i by omega]
    simp [hi]
  have hg : c.word.extractLsb' 8 8 = c.g := BitVec.eq_of_getLsbD_eq fun i hi => by simp [getLsbD_word, hi]
  have hb : c.word.extractLsb' 0 8 = c.b := BitVec.eq_of_getLsbD_eq fun i hi => by simp [getLsbD_word, hi]
  rw [Color.ofWord, hr, hg, hb]

/-- The bits of a frame give its Color back. -/
theorem ofWord_wordOfBits_frameBits (c : Color) : Color.ofWord (wordOfBits (frameBits c)) = c := by
  rw [← sentBits_word, wordOfBits_sentBits le_rfl, Nat.sub_self, BitVec.ushiftRight_zero, ofWord_word]

/-! ## The reference receiver on one piece -/

/-- The receiver looks at a piece's pulses only. -/
theorem receive_congr {p : Params} {ls ls' : List Level} (h : pulseWidths 0 ls = pulseWidths 0 ls') :
    receive p ls = receive p ls' := by
  rw [receive, receive, h]

/-- A run of 0s at the end of a list adds no pulse. -/
theorem pulseWidths_append_low (n k : Nat) (ls : List Level) :
    pulseWidths n (ls ++ List.replicate k false) = pulseWidths n ls := by
  induction ls generalizing n with
  | nil =>
    cases k with
    | zero => rfl
    | succ k =>
      have hk : pulseWidths 0 (List.replicate k false) = [] := by
        simpa [pulseWidths] using pulseWidths_low k []
      cases n <;> simp [List.replicate_succ, pulseWidths, hk]
  | cons l ls ih => cases l <;> cases n <;> simp [pulseWidths, ih]

/-- Symbols give one pulse each. -/
theorem pulseWidths_symbols {p : Params} (h : p.Valid) (bits : List Bool) :
    pulseWidths 0 (bits.flatMap (symbol p)) = bits.map (highTicks p) := by
  induction bits with
  | nil => rfl
  | cons b bits ih => rw [List.flatMap_cons, pulseWidths_symbol h, ih, List.map_cons]

/-- Pulses of symbols tell their bits. -/
theorem mapM_pulseBit {p : Params} (h : p.Valid) (bits : List Bool) :
    (bits.map (highTicks p)).mapM (pulseBit p) = some bits := by
  induction bits with
  | nil => rfl
  | cons b bits ih => simp [pulseBit_highTicks h, ih]

theorem receive_append_low (p : Params) (ls : List Level) (k : Nat) :
    receive p (ls ++ List.replicate k false) = receive p ls :=
  receive_congr (pulseWidths_append_low 0 k ls)

/-- The symbols of a frame, low ticks before them or not, are received as its Color. -/
theorem receive_symbols {p : Params} (h : p.Valid) (k : Nat) (c : Color) :
    receive p (List.replicate k false ++ (frameBits c).flatMap (symbol p)) = some c := by
  rw [receive, pulseWidths_low, pulseWidths_symbols h, mapM_pulseBit h]
  simp [frameBitCount, pixelCount, channelCount, channelBitCount, ofWord_wordOfBits_frameBits]

/-- A frame begins high. -/
theorem frameWave_eq_cons {p : Params} (hv : p.Valid) (c : Color) : ∃ ls, frameWave p c = true :: ls := by
  obtain ⟨b, bits, hb⟩ : ∃ b bits, frameBits c = b :: bits := ⟨_, _, rfl⟩
  obtain ⟨k, hk⟩ := Nat.exists_eq_add_of_le' (highTicks_pos hv b)
  exact ⟨_, by rw [frameWave, hb, List.flatMap_cons, symbol, hk, List.replicate_succ]; rfl⟩

/-! ## The receiver's split -/

section
variable {n : Nat}

/-- Low ticks lengthen the low run. -/
theorem splitAtResets_low (k : Nat) (ls piece : List Level) (lows : Nat) :
    splitAtResets n (List.replicate k false ++ ls) piece lows = splitAtResets n ls piece (lows + k) := by
  induction k generalizing lows with
  | zero => rfl
  | succ k ih => rw [List.replicate_succ, List.cons_append, splitAtResets, ih, Nat.add_assoc, Nat.add_comm 1]

/-- High ticks after a low run too short to cut join the piece. -/
theorem splitAtResets_high {k lows : Nat} (hk : 1 ≤ k) (hl : lows < n) (ls piece : List Level) :
    splitAtResets n (List.replicate k true ++ ls) piece lows =
      splitAtResets n ls (piece ++ List.replicate lows false ++ List.replicate k true) 0 := by
  induction k, hk using Nat.le_induction generalizing piece lows with
  | base => simp [splitAtResets, Nat.not_le.2 hl]
  | succ k _ ih =>
    rw [List.replicate_succ, List.cons_append, splitAtResets, if_neg (by omega), ih (by omega)]
    simp

/-- After a low run that cuts, the receiver begins as with an empty piece. -/
theorem splitAtResets_cut {lows : Nat} (hn : 0 < n) (hl : n ≤ lows) (ls piece : List Level) :
    splitAtResets n (true :: ls) piece lows = piece :: splitAtResets n (true :: ls) [] 0 := by
  simp [splitAtResets, hl, Nat.not_le.2 hn]

end

section
variable {p : Params} (hv : p.Valid) (hs : ∀ b, lowTicks p b < p.tReset)
include hv hs

/-- Symbols whose low parts are too short to cut stay in one piece, the last low part pending. -/
theorem splitAtResets_symbols (bits : List Bool) (piece : List Level) {lows : Nat} (hl : lows < p.tReset) :
    ∃ piece' lows', lows' < p.tReset ∧
      piece' ++ List.replicate lows' false = piece ++ List.replicate lows false ++ bits.flatMap (symbol p) ∧
      ∀ ls, splitAtResets p.tReset (bits.flatMap (symbol p) ++ ls) piece lows = splitAtResets p.tReset ls piece' lows' := by
  induction bits generalizing piece lows with
  | nil => exact ⟨piece, lows, hl, by simp, fun _ => rfl⟩
  | cons b bits ih =>
    obtain ⟨piece', lows', hl', hp, he⟩ :=
      ih (piece ++ List.replicate lows false ++ List.replicate (highTicks p b) true) (hs b)
    refine ⟨piece', lows', hl', ?_, fun ls => ?_⟩
    · rw [hp, List.flatMap_cons, symbol]
      simp
    · rw [← he, List.flatMap_cons, symbol, List.append_assoc, List.append_assoc,
        splitAtResets_high (highTicks_pos hv b) hl, splitAtResets_low, Nat.zero_add]

/-- A frame after nothing but low ticks too few to cut becomes the pending piece, which is received as its Color. -/
theorem splitAtResets_frame (c : Color) {lows : Nat} (hl : lows < p.tReset) :
    ∃ piece' lows', p.tReset ≤ lows' ∧ receive p piece' = some c ∧
      ∀ ls, splitAtResets p.tReset (frameWave p c ++ ls) [] lows = splitAtResets p.tReset ls piece' lows' := by
  obtain ⟨piece', lows', -, hp, he⟩ := splitAtResets_symbols hv hs (frameBits c) [] hl
  refine ⟨piece', lows' + p.tReset, by omega, ?_, fun ls => ?_⟩
  · rw [← receive_append_low p piece' lows', hp, List.nil_append, receive_symbols hv]
  · rw [frameWave, List.append_assoc, he, resetWave, splitAtResets_low]

/-- The receiver on a trace of frames, from a piece that the pending low run cuts off, or from none: the piece's Color, if it
has one, then those of the frames. -/
theorem filterMap_receive_splitAtResets (frames : List (Nat × Color)) (piece : List Level) (lows : Nat)
    (h : p.tReset ≤ lows ∨ piece = []) :
    (splitAtResets p.tReset (frames.flatMap fun f => List.replicate f.1 false ++ frameWave p f.2) piece lows).filterMap
      (receive p) = (receive p piece).toList ++ frames.map fun f => f.2 := by
  induction frames generalizing piece lows with
  | nil =>
    have hr : receive p (piece ++ List.replicate lows false) = receive p piece := receive_append_low p piece lows
    rw [List.flatMap_nil, splitAtResets]
    split <;> cases hp : receive p piece <;> simp [hr, hp]
  | cons f frames ih =>
    obtain ⟨k, c⟩ := f
    rw [List.flatMap_cons, List.append_assoc, splitAtResets_low, List.map_cons]
    by_cases hc : p.tReset ≤ lows + k
    · obtain ⟨ls, hls⟩ := frameWave_eq_cons hv c
      obtain ⟨piece', lows', hl', hr, he⟩ := splitAtResets_frame hv hs c (Safety.tReset_pos hv)
      rw [hls, List.cons_append, splitAtResets_cut (Safety.tReset_pos hv) hc, ← List.cons_append, ← hls, he,
        List.filterMap_cons, ih piece' lows' (.inl hl'), hr]
      cases receive p piece <;> rfl
    · obtain rfl := h.resolve_left (by omega)
      obtain ⟨piece', lows', hl', hr, he⟩ := splitAtResets_frame hv hs c (Nat.lt_of_not_le hc)
      rw [he, ih piece' lows' (.inl hl'), hr]
      rfl

end

/-- Settles O56: the trace begins with an empty piece, which is no Color, and every frame of it is read off its own piece. -/
theorem receiverReadsEveryFrameOfATrace : Obligations.ReceiverReadsEveryFrameOfATrace := by
  intro p frames hv h0 h1
  have hs : ∀ b, lowTicks p b < p.tReset
    | false => h0
    | true => h1
  calc receiveTrace p (frames.flatMap fun f => List.replicate f.1 false ++ frameWave p f.2)
      = (receive p []).toList ++ frames.map fun f => f.2 :=
        filterMap_receive_splitAtResets hv hs frames [] 0 (.inr rfl)
    _ = frames.map fun f => f.2 := rfl

end Sys2Proof

namespace Sys2Proof.Machine

open Sys2Proof.Safety

/-! ## Later in a run

A run of the block is followed as `after n s = u.later n`, where the register moves make `u` of `s`. What the environment
drives depends on no register, so a premise on `s` is, by unfolding, one on `u`. -/

/-- The same registers `n` intervals later. -/
def State.later (s : State) (n : Nat) : State := { s with inputs := s.inputs.drop n, edge := s.edge + n }

section
variable (s : State) (m n : Nat)

@[simp] theorem later_seq : (s.later n).seq = s.seq := rfl
@[simp] theorem later_phase : (s.later n).phase = s.phase := rfl
@[simp] theorem later_bitcnt : (s.later n).bitcnt = s.bitcnt := rfl
@[simp] theorem later_tick : (s.later n).tick = s.tick := rfl
@[simp] theorem later_params : (s.later n).params = s.params := rfl
@[simp] theorem later_later : (s.later m).later n = s.later (m + n) := by simp [State.later, Nat.add_assoc]

theorem advance_eq_later : s.advance = s.later 1 := by rw [State.advance, State.later, List.drop_one]

theorem inputAt_later (k : Nat) : inputAt (s.later n) k = inputAt s (n + k) := by
  simp only [inputAt, State.later, List.getD_eq_getElem?_getD, List.getElem?_drop]
  congr 2
  omega

theorem port_later : (s.later n).port = inputAt s n := by rw [port_eq_inputAt, inputAt_later, Nat.add_zero]

end

end Sys2Proof.Machine

namespace Sys2Proof.Safety

open Sys2Proof.Machine

/-! ## The premises later in a run -/

section
variable {s : State} {a b d m n : Nat}

theorem NoReset.later (h : NoReset s a n) (ha : a ≤ d + b) (hn : d + b + m ≤ a + n) : NoReset (s.later d) b m :=
  fun k hb hk => inputAt_later s d k ▸ h (d + k) (by omega) (by omega)

theorem NoUnderrun.later (h : NoUnderrun s a n) (ha : a ≤ d + b) (hn : d + b + m ≤ a + n) :
    NoUnderrun (s.later d) b m :=
  fun k hb hk => inputAt_later s d k ▸ h (d + k) (by omega) (by omega)

theorem NoReset.mono (h : NoReset s a n) (ha : a ≤ b) (hn : b + m ≤ a + n) : NoReset s b m :=
  fun k hb hk => h k (by omega) (by omega)

theorem NoUnderrun.mono (h : NoUnderrun s a n) (ha : a ≤ b) (hn : b + m ≤ a + n) : NoUnderrun s b m :=
  fun k hb hk => h k (by omega) (by omega)

theorem Presents.later {buf : List Byte} (h : Presents s (d + n) buf) : Presents (s.later d) n buf := by
  rwa [Presents, inputAt_later]

theorem NoReset.rst_port (h : NoReset s 0 n) (hn : 0 < n) : s.port.rst = false :=
  port_eq_inputAt s ▸ h 0 le_rfl (by omega)

end

end Sys2Proof.Safety

namespace Sys2Proof.Machine

open Sys2Proof.Safety

/-! ## Runs of the transmitter -/

/-- Over `n` edges the block goes from `s` to `t`, puts `ls` on the line, and is busy in each of the `n` intervals. -/
structure Run (n : Nat) (s t : State) (ls : List Level) : Prop where
  after_eq : after n s = t
  levels_eq : levels n s = ls
  busy : ∀ k, k < n → (after k s).phase ≠ .idle

theorem Run.zero (s : State) : Run 0 s s [] := ⟨rfl, rfl, fun _ h => absurd h (Nat.not_lt_zero _)⟩

theorem Run.trans {m n : Nat} {s t u : State} {ls ls' : List Level} (h : Run m s t ls) (h' : Run n t u ls') :
    Run (m + n) s u (ls ++ ls') where
  after_eq := by rw [after_add, h.after_eq, h'.after_eq]
  levels_eq := by rw [levels_add, h.after_eq, h.levels_eq, h'.levels_eq]
  busy k hk := by
    rcases Nat.lt_or_ge k m with hm | hm
    · exact h.busy k hm
    · obtain ⟨j, rfl⟩ := Nat.exists_eq_add_of_le hm
      rw [after_add, h.after_eq]
      exact h'.busy j (by omega)

/-! ### A tick -/

section
variable {s : State}

/-- While the transmitter is at work an edge is its tick, whatever is presented (R64, R176, R178). -/
theorem step_of_busy (hv : s.params.Valid) (hr : s.port.rst = false) (hq : s.seq ≠ .diag) (hp : s.phase ≠ .idle) :
    step s = .next (renderTick s).advance := by
  have hc : s.cmdReady ≠ true := fun hc => hp ((cmdReady_iff s).1 hc).2
  rcases fetch_cases hv with ⟨h, -⟩ | ⟨h, -⟩ | ⟨h, -⟩ | ⟨h, -⟩ | ⟨-, -, hf⟩
  · exact absurd h hc
  · exact absurd h hc
  · exact absurd h hc
  · exact absurd h hq
  · exact step_of_lineElement hv hr hq hf

/-- One edge of a busy block. -/
theorem run_edge (hv : s.params.Valid) (hr : s.port.rst = false) (hq : s.seq ≠ .diag) (hp : s.phase ≠ .idle) :
    Run 1 s ((renderTick s).later 1) [s.dout] where
  after_eq := by rw [after_succ_of_step (step_of_busy hv hr hq hp) 0, after, advance_eq_later]
  levels_eq := by rw [levels_succ_of_step (step_of_busy hv hr hq hp) 0]; rfl
  busy k hk := by
    obtain rfl : k = 0 := by omega
    exact hp

theorem renderTick_count (hp : s.phase ≠ .idle) (hu : s.phase ≠ .gap → s.underrunSeen = false) (ht : 1 < s.tick) :
    renderTick s = s.countDown := by
  rcases hp' : s.phase with _ | _ | _ | _
  case idle => exact absurd hp' hp
  case hi | lo => simp [renderTick, symbolTick, hp', hu (by simp [hp']), ht]
  case gap => simp [renderTick, gapTick, hp', ht]

theorem renderTick_highEnd (hp : s.phase = .hi) (hu : s.underrunSeen = false) (ht : s.tick ≤ 1) :
    renderTick s = s.beginLow s.presentBit := by
  simp [renderTick, symbolTick, hp, hu, Nat.not_lt.2 ht]

theorem renderTick_lowEnd (hp : s.phase = .lo) (hu : s.underrunSeen = false) (ht : s.tick ≤ 1) :
    renderTick s = endSymbol s := by
  simp [renderTick, symbolTick, hp, hu, Nat.not_lt.2 ht]

theorem renderTick_gapEnd (hp : s.phase = .gap) (ht : s.tick ≤ 1) : renderTick s = endGap s := by
  simp [renderTick, gapTick, hp, Nat.not_lt.2 ht]

end

/-! ### A phase -/

/-- The state `k` edges later in the same phase, `tick` counted down. -/
def State.counted (s : State) (k : Nat) : State := ({ s with tick := s.tick - k } : State).later k

section
variable {s : State} {k : Nat}

@[simp] theorem counted_tick : (s.counted k).tick = s.tick - k := rfl

theorem counted_port : (s.counted k).port = inputAt s k := port_later { s with tick := s.tick - k } k

theorem counted_countDown : (s.counted k).countDown.later 1 = s.counted (k + 1) :=
  later_later { s with tick := s.tick - (k + 1) } k 1

theorem counted_underrunSeen {n : Nat} (h : NoUnderrun s 0 n) (hk : k < n) : (s.counted k).underrunSeen = false := by
  rw [State.underrunSeen, counted_port, h k (Nat.zero_le k) (by omega), Bool.and_false]

/-- `k` ticks of a phase that lasts longer. -/
theorem run_counted (hv : s.params.Valid) (hq : s.seq ≠ .diag) (hp : s.phase ≠ .idle) (hr : NoReset s 0 k)
    (hu : s.phase ≠ .gap → NoUnderrun s 0 k) (hk : k < s.tick) : Run k s (s.counted k) (List.replicate k s.dout) := by
  induction k with
  | zero => exact .zero s
  | succ k ih =>
    have h := ih (hr.mono le_rfl (by omega)) (fun hg => (hu hg).mono le_rfl (by omega)) (by omega)
    have hr' : (s.counted k).port.rst = false := counted_port ▸ hr k (Nat.zero_le k) (by omega)
    have ht : renderTick (s.counted k) = (s.counted k).countDown :=
      renderTick_count hp (fun hg => counted_underrunSeen (hu hg) k.lt_succ_self) (Nat.lt_sub_of_add_lt (by omega))
    have h' := run_edge (s := s.counted k) hv hr' hq hp
    rw [ht, counted_countDown] at h'
    rw [List.replicate_succ']
    exact h.trans h'

/-- The levels of a whole phase need no more than the edges inside it. -/
theorem levels_phase (hv : s.params.Valid) (hq : s.seq ≠ .diag) (hp : s.phase ≠ .idle) (ht : s.tick = k + 1)
    (hr : NoReset s 0 k) (hu : s.phase ≠ .gap → NoUnderrun s 0 k) :
    levels (k + 1) s = List.replicate (k + 1) s.dout := by
  have h := run_counted hv hq hp hr hu (by omega)
  rw [levels_add, h.levels_eq, h.after_eq, List.replicate_succ']
  rfl

/-- A whole phase, where its last edge leaves `u`. -/
theorem run_phase {u : State} (hv : s.params.Valid) (hq : s.seq ≠ .diag) (hp : s.phase ≠ .idle) (ht : 1 ≤ s.tick)
    (hr : NoReset s 0 s.tick) (hu : s.phase ≠ .gap → NoUnderrun s 0 s.tick)
    (he : ∀ k, s.tick = k + 1 → renderTick (s.counted k) = u.later k) :
    Run s.tick s (u.later s.tick) (List.replicate s.tick s.dout) := by
  obtain ⟨k, hk⟩ := Nat.exists_eq_add_of_le' ht
  have h := run_counted hv hq hp (hr.mono le_rfl (by omega)) (fun hg => (hu hg).mono le_rfl (by omega))
    (show k < s.tick by omega)
  have hr' : (s.counted k).port.rst = false := counted_port ▸ hr k (Nat.zero_le k) (by omega)
  have h' := run_edge (s := s.counted k) hv hr' hq hp
  rw [he k hk, later_later] at h'
  rw [hk, List.replicate_succ']
  exact h.trans h'

end

/-! ### A symbol and a frame -/

section
variable {s : State}

/-- The high part of a symbol (R139). -/
theorem run_high (hv : s.params.Valid) (hq : s.seq ≠ .diag) (hp : s.phase = .hi) (ht : 1 ≤ s.tick)
    (hr : NoReset s 0 s.tick) (hu : NoUnderrun s 0 s.tick) :
    Run s.tick s ((s.beginLow s.presentBit).later s.tick) (List.replicate s.tick true) := by
  have h := run_phase (u := s.beginLow s.presentBit) hv hq (by simp [hp]) ht hr (fun _ => hu) fun k hk =>
    renderTick_highEnd (s := s.counted k) hp (counted_underrunSeen hu (by omega)) (by simp [hk])
  simpa [State.dout, hp] using h

/-- The end of a symbol overwrites `phase` and `tick` (R140). -/
theorem endSymbol_later (p : Phase) (t k : Nat) :
    endSymbol (({ s with phase := p, tick := t } : State).later k) = (endSymbol s).later k := by
  rcases endSymbol_cases s with ⟨hb, e⟩ | ⟨hb, e⟩ <;> rw [e, endSymbol]
  · exact if_pos hb
  · exact if_neg hb

/-- The low part of a symbol (R140). -/
theorem run_low (hv : s.params.Valid) (hq : s.seq ≠ .diag) (hp : s.phase = .lo) (ht : 1 ≤ s.tick)
    (hr : NoReset s 0 s.tick) (hu : NoUnderrun s 0 s.tick) :
    Run s.tick s ((endSymbol s).later s.tick) (List.replicate s.tick false) := by
  have h := run_phase (u := endSymbol s) hv hq (by simp [hp]) ht hr (fun _ => hu) fun k hk =>
    (renderTick_lowEnd (s := s.counted k) hp (counted_underrunSeen hu (by omega)) (by simp [hk])).trans
      (endSymbol_later s.phase _ k)
  simpa [State.dout, hp] using h

/-- The reset interval of a render, whatever `underrun` is (R141, R176). -/
theorem run_gap (hv : s.params.Valid) (hq : s.seq = .render) (hp : s.phase = .gap) (ht : 1 ≤ s.tick)
    (hr : NoReset s 0 s.tick) :
    Run s.tick s ((returnToWait s.beginIdle).later s.tick) (List.replicate s.tick false) := by
  have he : ∀ k, s.tick = k + 1 → renderTick (s.counted k) = (returnToWait s.beginIdle).later k := by
    intro k hk
    have h1 : (s.counted k).tick = 1 := by simp [hk]
    rw [renderTick_gapEnd (s := s.counted k) hp h1.le]
    rcases endGap_cases (s.counted k) with ⟨-, -, e⟩ | ⟨h | h, -⟩
    · exact e
    · exact absurd hq h
    · exact absurd h1 h
  have h := run_phase hv (by simp [hq]) (by simp [hp]) ht hr (absurd hp) he
  simpa [State.dout, hp] using h

/-- A symbol, tick for tick (R133, R134). -/
theorem run_symbol (hv : s.params.Valid) (hq : s.seq ≠ .diag) (hp : s.phase = .hi)
    (ht : s.tick = highTicks s.params s.presentBit) (hr : NoReset s 0 s.params.tBit)
    (hu : NoUnderrun s 0 s.params.tBit) :
    Run s.params.tBit s ((endSymbol s).later s.params.tBit) (symbol s.params s.presentBit) := by
  have hb := highTicks_add_lowTicks hv s.presentBit
  rw [← ht] at hb
  have hhi := run_high hv hq hp (ht ▸ highTicks_pos hv _) (hr.mono le_rfl (by omega)) (hu.mono le_rfl (by omega))
  have hlo := run_low (s := (s.beginLow s.presentBit).later s.tick) hv hq rfl (lowTicks_pos hv _)
    (NoReset.later (s := s.beginLow s.presentBit) hr (Nat.zero_le _) (by simp; omega))
    (NoUnderrun.later (s := s.beginLow s.presentBit) hu (Nat.zero_le _) (by simp; omega))
  have h := hhi.trans hlo
  have he : endSymbol ((s.beginLow s.presentBit).later s.tick) = (endSymbol s).later s.tick := endSymbol_later _ _ _
  rw [he, later_later, later_tick, beginLow_tick, hb, ht] at h
  exact h

/-- The last symbol's end (R140). -/
theorem endSymbol_last (hb : s.bitcnt = 1) : endSymbol s = (s.setFrame (s.sr <<< 1) 0).beginGap := by
  rw [endSymbol, if_pos hb, State.shiftOut, hb]
  rfl

/-- The last symbols of a frame, as many as `bitcnt` says. -/
theorem run_symbols {n : Nat} (hn : n < 24) (hv : s.params.Valid) (hq : s.seq ≠ .diag) (hp : s.phase = .hi)
    (ht : s.tick = highTicks s.params s.presentBit) (hb : s.bitcnt = BitVec.ofNat 5 (n + 1))
    (hr : NoReset s 0 ((n + 1) * s.params.tBit)) (hu : NoUnderrun s 0 ((n + 1) * s.params.tBit)) :
    Run ((n + 1) * s.params.tBit) s
      ((s.setFrame (s.sr <<< (n + 1)) 0).beginGap.later ((n + 1) * s.params.tBit))
      ((sentBits (n + 1) s.sr).flatMap (symbol s.params)) := by
  induction n generalizing s with
  | zero =>
    rw [Nat.zero_add, Nat.one_mul] at hr hu ⊢
    have h := run_symbol hv hq hp ht hr hu
    rw [endSymbol_last hb] at h
    rw [sentBits_succ hn, List.flatMap_cons]
    simpa [sentBits, State.presentBit] using h
  | succ n ih =>
    have hm : (n + 1 + 1) * s.params.tBit = s.params.tBit + (n + 1) * s.params.tBit := by rw [Nat.succ_mul, Nat.add_comm]
    have hb1 : s.bitcnt ≠ 1 := fun h => by
      have h : (n + 1 + 1) % 2 ^ 5 = 1 := congrArg BitVec.toNat (hb.symm.trans h)
      omega
    rw [hm] at hr hu ⊢
    have h := run_symbol hv hq hp ht (hr.mono le_rfl (by omega)) (hu.mono le_rfl (by omega))
    rw [endSymbol, if_neg hb1] at h
    have ht' : highTicks s.params s.nextBit = highTicks s.params s.shiftOut.presentBit := by rw [presentBit_shiftOut]
    have h' := ih (s := (s.shiftOut.beginHigh s.nextBit).later s.params.tBit) (by omega) hv hq rfl
      ht' (by rw [later_bitcnt, beginHigh_bitcnt, shiftOut_bitcnt, hb]; bv_omega)
      (NoReset.later (s := s.shiftOut.beginHigh s.nextBit) hr (Nat.zero_le _) (by simp))
      (NoUnderrun.later (s := s.shiftOut.beginHigh s.nextBit) hu (Nat.zero_le _) (by simp))
    rw [sentBits_succ hn, List.flatMap_cons, ← later_later, Nat.add_comm (n + 1) 1, BitVec.shiftLeft_add]
    exact h.trans h'

end

/-- The state after a render: the transmitter idle and empty, the block waiting again (R146). -/
def State.rendered (s : State) : State :=
  { s with seq := .wait, sr := 0, bitcnt := 0, phase := .idle, tick := 0, fail := false }

/-- The interval after the render of a command that the next edge takes. -/
def State.readyAgain (s : State) : State := s.rendered.later (1 + s.params.frameTicks)

@[simp] theorem readyAgain_params (s : State) : s.readyAgain.params = s.params := rfl

section
variable {s : State} {c : Color} {buf : List Byte}

/-- The state at the start of a frame's reset interval. -/
def State.sent (s : State) (c : Color) : State := ((startRender c s).setFrame 0 0).beginGap

/-- The 24 symbols of a loaded frame. -/
theorem run_frameSymbols (hv : s.params.Valid) (hr : NoReset s 0 (24 * s.params.tBit))
    (hu : NoUnderrun s 0 (24 * s.params.tBit)) :
    Run (24 * s.params.tBit) (startRender c s) ((s.sent c).later (24 * s.params.tBit))
      ((frameBits c).flatMap (symbol s.params)) := by
  have hsr : c.word <<< 24 = 0 := BitVec.shiftLeft_eq_zero le_rfl
  have ht : (startRender c s).tick = highTicks s.params (startRender c s).presentBit := by rw [presentBit_startRender]; rfl
  have h := run_symbols (s := startRender c s) (n := 23) (by omega) hv (by simp) rfl ht rfl hr hu
  rw [startRender_sr, hsr, sentBits_word] at h
  exact h

/-- A loaded frame, tick for tick, and where it ends (R136, R146). -/
theorem run_startRender (hv : s.params.Valid) (hr : NoReset s 0 s.params.frameTicks)
    (hu : NoUnderrun s 0 s.params.frameTicks) :
    Run s.params.frameTicks (startRender c s) (s.rendered.later s.params.frameTicks) (frameWave s.params c) := by
  have hF : s.params.frameTicks = 24 * s.params.tBit + s.params.tReset := rfl
  have h := run_frameSymbols (c := c) hv (hr.mono le_rfl (by omega)) (hu.mono le_rfl (by omega))
  have h' := run_gap (s := (s.sent c).later (24 * s.params.tBit)) hv rfl rfl (tReset_pos hv)
    (NoReset.later (s := s) hr (Nat.zero_le _) (by simp [hF, State.sent]))
  rw [hF, ← later_later]
  exact h.trans h'

/-- The levels of a loaded frame need no more than the edges inside it. -/
theorem levels_startRender (hv : s.params.Valid) (hr : NoReset s 0 (s.params.frameTicks - 1))
    (hu : NoUnderrun s 0 (24 * s.params.tBit)) :
    levels s.params.frameTicks (startRender c s) = frameWave s.params c := by
  obtain ⟨k, hk⟩ := Nat.exists_eq_add_of_le' (tReset_pos hv)
  have hF : s.params.frameTicks = 24 * s.params.tBit + (k + 1) := hk ▸ rfl
  have h := run_frameSymbols (c := c) hv (hr.mono le_rfl (by omega)) hu
  have h' := levels_phase (s := (s.sent c).later (24 * s.params.tBit)) hv (by simp [State.sent]) (by simp [State.sent]) hk
    (NoReset.later (s := s) hr (Nat.zero_le _) (by omega)) (absurd rfl)
  rw [hF, levels_add, h.levels_eq, h.after_eq, h', frameWave, resetWave, hk]
  rfl

/-- An accept edge of a valid command (R172). -/
theorem step_of_command (hv : s.params.Valid) (hr : s.port.rst = false) (hc : s.cmdReady = true)
    (hp : Presents s 0 buf) (hd : decodeResult buf = .ok c) : step s = .next ((startRender c s).later 1) := by
  obtain ⟨hval, hlen, hdat⟩ := hp
  have hne : buf.length ≠ 0 := fun h => by
    obtain rfl := List.eq_nil_of_length_eq_zero h
    simp [decodeResult] at hd
  rw [← port_eq_inputAt] at hval hlen hdat
  have ha : accepted s = some (.ok c) := by
    rw [accepted_of_presented hr hc hval (by rwa [hlen]), hlen, hdat, hd]
  obtain ⟨u, hu, e⟩ := exists_edge hv
  rw [e, advance_eq_later]
  cases hu with
  | reset h => simp [hr] at h
  | accept d _ _ h =>
    obtain rfl := Option.some.inj (h.symm.trans ha)
    rfl
  | move _ h => simp [ha] at h

/-- The interval after that edge. -/
theorem after_one_of_command (hv : s.params.Valid) (hr : s.port.rst = false) (hc : s.cmdReady = true)
    (hp : Presents s 0 buf) (hd : decodeResult buf = .ok c) : after 1 s = (startRender c s).later 1 :=
  after_succ_of_step (step_of_command hv hr hc hp hd) 0

/-- The render of a command accepted at the next edge (R146). -/
theorem run_command (hv : s.params.Valid) (hc : s.cmdReady = true) (hp : Presents s 0 buf)
    (hd : decodeResult buf = .ok c) (hr : NoReset s 0 (1 + s.params.frameTicks))
    (hu : NoUnderrun s 1 s.params.frameTicks) :
    Run s.params.frameTicks (after 1 s) s.readyAgain (frameWave s.params c) := by
  rw [after_one_of_command hv (hr.rst_port (by omega)) hc hp hd, State.readyAgain, ← later_later]
  exact run_startRender (s := s.later 1) hv (hr.later (Nat.zero_le _) (by simp)) (hu.later le_rfl (by simp))

/-- Its levels alone need no reset before its last interval. -/
theorem levels_command (hv : s.params.Valid) (hc : s.cmdReady = true) (hp : Presents s 0 buf)
    (hd : decodeResult buf = .ok c) (hr : NoReset s 0 s.params.frameTicks) (hu : NoUnderrun s 1 s.params.frameTicks) :
    levels s.params.frameTicks (after 1 s) = frameWave s.params c := by
  have hF : 24 * s.params.tBit < s.params.frameTicks := Nat.lt_add_of_pos_right (tReset_pos hv)
  rw [after_one_of_command hv (hr.rst_port (by omega)) hc hp hd]
  exact levels_startRender (s := s.later 1) hv (hr.later (Nat.zero_le _) (by simp; omega)) (hu.later le_rfl (by simp; omega))

end

/-- A block that sends takes no command. -/
theorem cmdReady_of_busy {s : State} (h : s.phase ≠ .idle) : s.cmdReady = false := by
  simp [State.cmdReady, h]

/-- Settles O48: the first render ends in a ready block, whose one interval is low, and the second begins there. -/
theorem twoFramesDoNotInterleave : Obligations.TwoFramesDoNotInterleave := by
  intro s buf buf' c c' hv hc hp hd hp' hd' hr hu hu'
  have h := run_command hv hc hp hd (hr.mono le_rfl (by omega)) hu
  have h' : levels s.params.frameTicks (after 1 s.readyAgain) = frameWave s.params c' :=
    levels_command (s := s.readyAgain) hv rfl (Presents.later (s := s.rendered) hp') hd'
      (NoReset.later (s := s.rendered) hr (Nat.zero_le _) (by simp; omega))
      (NoUnderrun.later (s := s.rendered) hu' (by omega) (by simp))
  have hlow : levels 1 s.readyAgain = [false] := rfl
  rw [show 2 * s.params.frameTicks + 1 = s.params.frameTicks + 1 + s.params.frameTicks by omega, levels_add, levels_add,
    after_add s.params.frameTicks 1, h.levels_eq, h.after_eq, hlow, h']

/-- Settles O49: the block is busy over the whole render, so the read is held through it, and the edge after it takes it. -/
theorem heldCommandIsTakenAfterTheRender : Obligations.HeldCommandIsTakenAfterTheRender := by
  intro s buf buf' c c' j hv hc hp hd hj1 hj hpj hd' hh hr hu
  have h := run_command hv hc hp hd (hr.mono le_rfl (by omega)) hu
  have hbusy : ∀ k, 1 ≤ k → k ≤ s.params.frameTicks → (after k s).cmdReady = false := by
    intro k h1 hk
    obtain ⟨i, rfl⟩ := Nat.exists_eq_add_of_le h1
    rw [after_add]
    exact cmdReady_of_busy (h.busy i (by omega))
  have hheld : ∀ k, j ≤ k → k ≤ 1 + s.params.frameTicks → Presents s k buf' := by
    intro k hjk
    induction k, hjk using Nat.le_induction with
    | base => exact fun _ => hpj
    | succ k hjk ih => exact fun hk => hh k buf' (by omega) (hbusy k (by omega) (by omega)) (ih (by omega))
  have hr' : NoReset s.readyAgain 0 1 :=
    NoReset.later (s := s.rendered) hr (Nat.zero_le _) (by omega)
  have hlast := after_one_of_command (s := s.readyAgain) hv (hr'.rst_port Nat.one_pos) rfl
    (Presents.later (s := s.rendered) (hheld _ (by omega) le_rfl)) hd'
  rw [show 2 + s.params.frameTicks = 1 + s.params.frameTicks + 1 by omega, after_add, after_add, h.after_eq, hlast]
  exact ⟨hbusy, rfl, rfl⟩

end Sys2Proof.Machine

/-! The obligations of 30_encoding.md. The three formats of R70 are taken one by one: a character and a read come back by their
codes, an element of the line by its pulses. -/

namespace Sys2Proof

/-! ## Characters -/

/-- The decoder reads a character's code as the character's row (R72). -/
@[simp] theorem decode_char_code (p : Params) (c : HexChar) : decode p (.char c.code) = .ok c.instr := by
  simp [decode]

/-- Every other byte is rejected by name (R72). -/
theorem decode_char_of_hexval_none (p : Params) {b : Byte} (h : hexval b = none) :
    decode p (.char b) = .error (.notAHexDigit b) := by
  simp [decode, Option.map_eq_none_iff.1 h]

/-- A table word of 8 bits is the row of the character it encodes (log 8). -/
theorem decodeTableWord_code (c : HexChar) : decodeTableWord 8 c.code.toNat = some c.instr := by
  simp [decodeTableWord, tableCodeOrRead, tableCode, Except.toOption]

/-- The predicate of R72 as comparisons of bytes. -/
theorem isHexDigit_iff (b : Byte) : isHexDigit b = true ↔
    (0x30#8 ≤ b ∧ b ≤ 0x39#8) ∨ (0x41#8 ≤ b ∧ b ≤ 0x46#8) ∨ (0x61#8 ≤ b ∧ b ≤ 0x66#8) := by
  simp [isHexDigit, BitVec.le_def, or_assoc]

/-- Settles O2: `hexval` has a value where the predicate of R72 holds. -/
theorem hexDigitCharactersAreThreeRanges : Obligations.HexDigitCharactersAreThreeRanges := by
  refine ⟨fun b => ?_, ?_, fun p _ => decode_char_of_hexval_none p⟩
  · rw [Machine.hexval_isSome, isHexDigit_iff]
  · simp only [Machine.hexval_isSome]
    decide

/-! ## Reads -/

/-- Six bytes of which one is no digit are `ILLEGAL.INVALIDDIGIT` (R80). -/
theorem decodeRead_invalidDigit {b0 b1 b2 b3 b4 b5 : Byte}
    (h : (isHexDigit b0 && isHexDigit b1 && isHexDigit b2 && isHexDigit b3 && isHexDigit b4 && isHexDigit b5) = false) :
    decodeRead [b0, b1, b2, b3, b4, b5] = .illegalInvaliddigit b0 b1 b2 b3 b4 b5 := by
  rcases decodeRead_six b0 b1 b2 b3 b4 b5 with ⟨c0, c1, c2, c3, c4, c5, rfl, rfl, rfl, rfl, rfl, rfl, -⟩ | ⟨-, hd⟩
  · simp at h
  · exact hd

/-- Settles O11: each word is the code of its characters, or breaks the length or a digit. -/
theorem writtenOutWordsDecode : Obligations.WrittenOutWordsDecode :=
  ⟨decodeRead_codes (.lower 5) (.lower 5) (.digit 0) (.digit 0) (.digit 0) (.digit 0),
    decodeRead_invalidDigit (by decide), decodeRead_length (by decide),
    decodeTableWord_code (.digit 7), decodeTableWord_code (.upper 0), decodeTableWord_code (.lower 5)⟩

/-! ## The elements of the line

Their pulses tell them apart: a symbol has one, whose width is its bit's, the reset interval has none, a frame has 24. -/

theorem pulseWidths_resetWave (p : Params) : pulseWidths 0 (resetWave p) = [] := by
  simpa [resetWave, pulseWidths] using pulseWidths_low p.tReset []

section
variable {p : Params} (hv : p.Valid)
include hv

theorem pulseWidths_one_symbol (b : Bool) : pulseWidths 0 (symbol p b) = [highTicks p b] := by
  simpa [pulseWidths] using pulseWidths_symbol hv b []

theorem pulseWidths_frameWave (c : Color) : pulseWidths 0 (frameWave p c) = (frameBits c).map (highTicks p) := by
  rw [frameWave, resetWave, pulseWidths_append_low, pulseWidths_symbols hv]

theorem receive_frameWave (c : Color) : receive p (frameWave p c) = some c := by
  rw [frameWave, resetWave, receive_append_low]
  exact receive_symbols hv 0 c

theorem symbol_injective : Function.Injective (symbol p) := by
  intro b b' h
  have hp := congrArg (pulseWidths 0) h
  rw [pulseWidths_one_symbol hv, pulseWidths_one_symbol hv, List.singleton_inj] at hp
  exact Option.some.inj (by rw [← pulseBit_highTicks hv, hp, pulseBit_highTicks hv])

theorem resetWave_ne_symbol (b : Bool) : resetWave p ≠ symbol p b := by
  intro h
  have hp := congrArg (pulseWidths 0) h
  simp [pulseWidths_resetWave, pulseWidths_one_symbol hv] at hp

theorem frameWave_ne_symbol (c : Color) (b : Bool) : frameWave p c ≠ symbol p b := by
  intro h
  have hp := congrArg (fun ls => (pulseWidths 0 ls).length) h
  simp [pulseWidths_frameWave hv, pulseWidths_one_symbol hv] at hp

theorem frameWave_ne_resetWave (c : Color) : frameWave p c ≠ resetWave p := by
  intro h
  have hp := congrArg (fun ls => (pulseWidths 0 ls).length) h
  simp [pulseWidths_frameWave hv, pulseWidths_resetWave] at hp

theorem decodeLine_symbol (b : Bool) : decodeLine p (symbol p b) = some (if b then .sym1 else .sym0) := by
  cases b <;> simp [decodeLine, (symbol_injective hv).eq_iff]

theorem decodeLine_resetWave : decodeLine p (resetWave p) = some .reset := by
  simp [decodeLine, resetWave_ne_symbol hv]

theorem decodeLine_frameWave (c : Color) : decodeLine p (frameWave p c) = some (.render c) := by
  simp [decodeLine, frameWave_ne_symbol hv, frameWave_ne_resetWave hv, receive_frameWave hv]

end

theorem decode_line_of_decodeLine {p : Params} {ls : List Level} {i : Instr} (h : decodeLine p ls = some i) :
    decode p (.line ls) = .ok i := by
  simp [decode, h]

/-! ## All rows -/

/-- Settles O1, row by row in the three formats. Well-formedness is what the two illegal classes need. -/
theorem decodeOfEncodeIsIdentity : Obligations.DecodeOfEncodeIsIdentity := by
  intro p i hv hwf
  cases i with
  | hexchar0 | hexchar1 | hexchar2 | hexchar3 | hexchar4 | hexchar5 | hexchar6 | hexchar7 | hexchar8 | hexchar9
  | hexcharUpperA | hexcharUpperB | hexcharUpperC | hexcharUpperD | hexcharUpperE | hexcharUpperF
  | hexcharLowerA | hexcharLowerB | hexcharLowerC | hexcharLowerD | hexcharLowerE | hexcharLowerF =>
    exact decode_char_code p _
  | setrgb rh rl gh gl bh bl => simp [encode, decode]
  | illegalWronglength len =>
    have hl : (List.replicate len 0x00#8).length ≠ 6 := by simpa [Instr.wf, cmdLength] using hwf
    rw [encode, decode, decodeRead_length hl, List.length_replicate]
  | illegalInvaliddigit b0 b1 b2 b3 b4 b5 =>
    rw [encode, decode, decodeRead_invalidDigit (by simpa only [Instr.wf, Bool.not_eq_true'] using hwf)]
  | sym0 => exact decode_line_of_decodeLine (decodeLine_symbol hv false)
  | sym1 => exact decode_line_of_decodeLine (decodeLine_symbol hv true)
  | reset => exact decode_line_of_decodeLine (decodeLine_resetWave hv)
  | render c => exact decode_line_of_decodeLine (decodeLine_frameWave hv c)

end Sys2Proof

/-! The obligations of 40_decode.md: the value of a character, `decode` of a read, and DEC's outputs at an edge. -/

namespace Sys2Proof

/-! ## The bytes of a class and their values

A byte in the range of a class (R72) is the code of a character of it, so a fact about these bytes is one about at most ten
characters. -/

theorem exists_ofNat_add {lo hi b : Byte} (h : lo ≤ b ∧ b ≤ hi) :
    ∃ d : Fin (hi.toNat - lo.toNat + 1), b = BitVec.ofNat 8 (lo.toNat + d.val) := by
  obtain ⟨hlo, hhi⟩ := h
  rw [BitVec.le_def] at hlo hhi
  refine ⟨⟨b.toNat - lo.toNat, by omega⟩, ?_⟩
  rw [Nat.add_sub_cancel' hlo, BitVec.ofNat_toNat, BitVec.setWidth_eq]

theorem exists_digit {b : Byte} (h : 0x30#8 ≤ b ∧ b ≤ 0x39#8) : ∃ d, b = (HexChar.digit d).code := exists_ofNat_add h

theorem exists_upper {b : Byte} (h : 0x41#8 ≤ b ∧ b ≤ 0x46#8) : ∃ d, b = (HexChar.upper d).code := exists_ofNat_add h

theorem exists_lower {b : Byte} (h : 0x61#8 ≤ b ∧ b ≤ 0x66#8) : ∃ d, b = (HexChar.lower d).code := exists_ofNat_add h

/-- Settles O3, class by class on the characters' codes. -/
theorem digitValueByClass : Obligations.DigitValueByClass := by
  refine fun b => ⟨fun h => ?_, fun h => ?_, fun h => ?_⟩
  · obtain ⟨d, rfl⟩ := exists_digit h
    rw [hexval_code]
    decide +revert
  · obtain ⟨d, rfl⟩ := exists_upper h
    rw [hexval_code]
    decide +revert
  · obtain ⟨d, rfl⟩ := exists_lower h
    rw [hexval_code]
    decide +revert

/-- A concatenation of two digits as a number (R106). -/
theorem digitPair_toNat (h l : Digit) : (digitPair h l).toNat = 16 * h.toNat + l.toNat := by
  rw [digitPair, BitVec.toNat_append, ← Nat.shiftLeft_add_eq_or_of_lt l.isLt, Nat.shiftLeft_eq, Nat.mul_comm]

/-- Settles O4: the pair is the concatenation, and the corner values are computed. -/
theorem pairIsHighDigitFirst : Obligations.PairIsHighDigitFirst :=
  ⟨fun h l => ⟨digitPair_toNat h.value l.value, rfl⟩, by decide, by decide, by decide, by decide⟩

/-! ## `decode` of a read -/

/-- A read has another length than six, or it is the codes of six characters, or six bytes of which one is no digit. -/
theorem read_cases (buf : List Byte) :
    buf.length ≠ 6 ∨
    (∃ c0 c1 c2 c3 c4 c5 : HexChar, buf = [c0.code, c1.code, c2.code, c3.code, c4.code, c5.code]) ∨
    ∃ b0 b1 b2 b3 b4 b5, buf = [b0, b1, b2, b3, b4, b5] ∧
      (isHexDigit b0 && isHexDigit b1 && isHexDigit b2 && isHexDigit b3 && isHexDigit b4 && isHexDigit b5) = false := by
  by_cases h : buf.length = 6
  · obtain ⟨b0, b1, b2, b3, b4, b5, rfl⟩ := six_bytes h
    rcases decodeRead_six b0 b1 b2 b3 b4 b5 with ⟨c0, c1, c2, c3, c4, c5, rfl, rfl, rfl, rfl, rfl, rfl, -⟩ | ⟨hb, -⟩
    · exact .inr (.inl ⟨c0, c1, c2, c3, c4, c5, rfl⟩)
    · exact .inr (.inr ⟨b0, b1, b2, b3, b4, b5, rfl, hb⟩)
  · exact .inl h

theorem hexval_eq_none_iff (b : Byte) : hexval b = none ↔ isHexDigit b = false := by
  rw [← Machine.hexval_isSome, Option.isSome_eq_false_iff, Option.isNone_iff_eq_none]

/-- Settles O5: of the three kinds of read, only six characters succeed. -/
theorem decodeTestsLengthThenDigits : Obligations.DecodeTestsLengthThenDigits := by
  intro buf
  rcases read_cases buf with h | ⟨c0, c1, c2, c3, c4, c5, rfl⟩ | ⟨b0, b1, b2, b3, b4, b5, rfl, hb⟩
  · exact ⟨decodeResult_length, fun h6 => absurd h6 h, fun h6 => absurd h6 h⟩
  · exact ⟨decodeResult_length, fun _ hn => by simp at hn, fun _ _ => ⟨_, Machine.decodeResult_codes c0 c1 c2 c3 c4 c5⟩⟩
  · exact ⟨decodeResult_length, fun _ _ => Machine.decodeResult_invalidDigit hb,
      fun _ hall => by simp_all [hexval_eq_none_iff]⟩

/-- Settles O6, kind by kind of read. -/
theorem decodedReadAgreesWithDecodeResult : Obligations.DecodedReadAgreesWithDecodeResult := by
  refine fun buf => ⟨decodeRead_wf buf, ?_⟩
  rcases read_cases buf with h | ⟨c0, c1, c2, c3, c4, c5, rfl⟩ | ⟨b0, b1, b2, b3, b4, b5, rfl, hb⟩
  · rw [decodeRead_length h]
    exact ⟨decodeResult_length h, rfl⟩
  · rw [decodeRead_codes]
    exact Machine.decodeResult_codes c0 c1 c2 c3 c4 c5
  · rw [decodeRead_invalidDigit hb]
    exact ⟨Machine.decodeResult_invalidDigit hb, rfl⟩

/-- `decode` sees of a read its bytes' values alone. -/
theorem decodeResult_congr {buf buf' : List Byte} (h : buf.map hexval = buf'.map hexval) :
    decodeResult buf = decodeResult buf' := by
  have hl : buf.length = buf'.length := by simpa using congrArg List.length h
  by_cases h6 : buf.length = 6
  · obtain ⟨b0, b1, b2, b3, b4, b5, rfl⟩ := six_bytes h6
    obtain ⟨c0, c1, c2, c3, c4, c5, rfl⟩ := six_bytes (hl ▸ h6)
    simp only [List.map_cons, List.map_nil, List.cons.injEq, and_true] at h
    obtain ⟨h0, h1, h2, h3, h4, h5⟩ := h
    simp only [decodeResult, h0, h1, h2, h3, h4, h5]
  · rw [decodeResult_length h6, decodeResult_length (hl ▸ h6)]

/-- A byte of the same value in a byte's place leaves `decode` unchanged. -/
theorem decodeResult_set {buf : List Byte} {k : Nat} {b b' : Byte} (hk : buf[k]? = some b) (hv : hexval b' = hexval b) :
    decodeResult (buf.set k b') = decodeResult buf := by
  apply decodeResult_congr
  obtain ⟨hlt, rfl⟩ := List.getElem?_eq_some_iff.1 hk
  rw [List.map_set, hv, ← List.getElem_map hexval (h := by simpa using hlt), List.set_getElem_self]

/-- The two cases of a letter are 0x20 apart (R112). -/
theorem code_upper_add (d : Fin 6) : (HexChar.upper d).code + 0x20#8 = (HexChar.lower d).code := by
  decide +revert

/-- The two cases of a letter have one value (R104, R105). -/
theorem hexval_code_lower (d : Fin 6) : hexval (HexChar.lower d).code = hexval (HexChar.upper d).code := by
  rw [hexval_code, hexval_code, HexChar.value, HexChar.value]

/-- Settles O7: a letter's other case stands 0x20 away and has the same value. -/
theorem letterCaseDoesNotMatter : Obligations.LetterCaseDoesNotMatter := by
  refine fun buf k b hk => ⟨fun h => decodeResult_set hk ?_, fun h => decodeResult_set hk ?_⟩
  · obtain ⟨d, rfl⟩ := exists_upper h
    rw [code_upper_add, hexval_code_lower]
  · obtain ⟨d, rfl⟩ := exists_lower h
    rw [← code_upper_add, BitVec.add_sub_cancel, code_upper_add, hexval_code_lower]

end Sys2Proof

namespace Sys2Proof.Machine

/-! ## The HEXCHAR rows -/

/-- The row of a character is its code's, writes nothing (R111), and DEC's wires carry its value at its code (R113). -/
theorem row_of_char (p : Params) (s : State) (k : Nat) (c : HexChar) :
    decode p (.char c.code) = .ok c.instr ∧ exec c.instr s = .next s ∧
      (s.port.cmdData.read k = c.code → s.port.digit k = some c.value) :=
  ⟨decode_char_code p c, exec_char c s, digit_of_code⟩

/-- Settles O12: the ten characters of `DIGIT`. -/
theorem digitRowsEvaluateTheirCharacter : Obligations.DigitRowsEvaluateTheirCharacter := fun p s k =>
  have row (d : Fin 10) := row_of_char p s k (.digit d)
  ⟨row 0, row 1, row 2, row 3, row 4, row 5, row 6, row 7, row 8, row 9⟩

/-- Settles O13: the six characters of `UPPER`. -/
theorem upperRowsEvaluateTheirCharacter : Obligations.UpperRowsEvaluateTheirCharacter := fun p s k =>
  have row (d : Fin 6) := row_of_char p s k (.upper d)
  ⟨row 0, row 1, row 2, row 3, row 4, row 5⟩

/-- Settles O14: the six characters of `LOWER`. -/
theorem lowerRowsEvaluateTheirCharacter : Obligations.LowerRowsEvaluateTheirCharacter := fun p s k =>
  have row (d : Fin 6) := row_of_char p s k (.lower d)
  ⟨row 0, row 1, row 2, row 3, row 4, row 5⟩

/-! ## DEC at the edges of a ready block -/

/-- With no read presented, a ready block's edge is that of the driven character, if any (log 4). -/
theorem fetch_of_not_presented {s : State} (hc : s.cmdReady = true) (hval : s.port.cmdValid = false) :
    fetch s = .ok (drivenChar s.port) := by
  obtain ⟨hq, hp⟩ := (cmdReady_iff s).1 hc
  simp [fetch, hq, hp, hval]

/-- With a read presented that is not empty, a ready block's edge is that of what it decodes to (R171). -/
theorem fetch_of_presented {s : State} (hv : s.params.Valid) (hc : s.cmdReady = true) (hval : s.port.cmdValid = true)
    (hl : s.port.cmdLen ≠ 0) : fetch s = .ok (some (decodeRead (s.port.cmdData.readBytes 0 s.port.cmdLen))) := by
  obtain ⟨hq, hp⟩ := (cmdReady_iff s).1 hc
  simp [fetch, hq, hp, hval, hl, fetchRead_decodeRead hv, Except.map]

theorem drivenChar_of_code {i : Input} {c : HexChar} (hl : i.cmdLen = 6) (hb : i.cmdData.read 0 = c.code) :
    drivenChar i = some c.instr := by
  simp [drivenChar, cmdLength, hl, hb]

/-- Settles O29: the edge fetches the row of the driven character, which writes nothing. -/
theorem stepRunsTheDrivenCharacter : Obligations.StepRunsTheDrivenCharacter := by
  intro s c hv hr hc hval hl hb
  have hstep : step s = endEdge (exec c.instr s) :=
    step_of_fetch_some hv hr (by rw [fetch_of_not_presented hc hval, drivenChar_of_code hl hb])
  exact ⟨hstep, by rw [hstep, exec_char, endEdge]⟩

@[simp] theorem Memory.length_readBytes (m : Memory) (addr n : Nat) : (m.readBytes addr n).length = n := by
  rw [Memory.readBytes, List.length_map, List.length_range]

/-- DEC is a function of `cmd_len` and its six bytes (R113): where the length is not six, no byte is looked at. -/
theorem decOutputs_congr {i i' : Input} (hl : i.cmdLen = i'.cmdLen)
    (hb : i.cmdData.readBytes 0 6 = i'.cmdData.readBytes 0 6) : decOutputs i = decOutputs i' := by
  rw [decOutputs_eq, decOutputs_eq, ← hl]
  by_cases h6 : i.cmdLen = 6
  · rw [h6, hb]
  · rw [decodeResult_length (by simpa using h6), decodeResult_length (by simpa using h6)]

/-- An accept edge does what `decode` of the presented read asks for (R172, R173). -/
theorem step_of_presented {s : State} (hv : s.params.Valid) (hr : s.port.rst = false) (hc : s.cmdReady = true)
    (hval : s.port.cmdValid = true) (hl : s.port.cmdLen ≠ 0) :
    step s = .next (acceptRead (decodeResult (s.port.cmdData.readBytes 0 s.port.cmdLen)) s).advance := by
  rw [step_of_fetch_some hv hr (fetch_of_presented hv hc hval hl), exec_decodeRead hc (by simpa using hl), endEdge]

/-- Settles O54: DEC's outputs are `decode` of the read, and an accept edge does what that asks for. -/
theorem decoderIsCombinational : Obligations.DecoderIsCombinational := by
  refine ⟨fun i i' => decOutputs_congr, fun i => ?_, fun s hv hr hc hval hl => ⟨_, step_of_presented hv hr hc hval hl, ?_⟩⟩
  · rw [decOutputs_eq]
    cases decodeResult (i.cmdData.readBytes 0 i.cmdLen) with
    | ok c => rfl
    | error e => rfl
  · have hp : s.phase = .idle := ((cmdReady_iff s).1 hc).2
    rw [decOutputs_eq]
    cases decodeResult (s.port.cmdData.readBytes 0 s.port.cmdLen) with
    | ok c => exact ⟨rfl, rfl, rfl, rfl⟩
    | error e => cases e <;> exact ⟨rfl, rfl, rfl, hp⟩

end Sys2Proof.Machine

/-! The obligations of 41_transmit.md: the bits and the ticks of a frame, the rows of the transmitter, the arrows of `phase` and
`seq`, and a render from its first symbol, its accept edge or its abort to its end. -/

namespace Sys2Proof

/-! ## The bits of a frame in its word -/

/-- Settles O8: the frame bits are those the frame register sends, and the channels come back from the word. -/
theorem frameBitsAreRedGreenBlueMsbFirst : Obligations.FrameBitsAreRedGreenBlueMsbFirst := by
  intro c
  refine ⟨rfl, fun k hk => ?_, congrArg Color.r (ofWord_word c), congrArg Color.g (ofWord_word c),
    congrArg Color.b (ofWord_word c)⟩
  rw [← sentBits_word, sentBits, List.getElem?_map, List.getElem?_range hk, Option.map_some]

/-! ## The ticks of a frame -/

/-- The high ticks of symbols, told by their bits. -/
theorem count_true_symbols (p : Params) (bits : List Bool) :
    (bits.flatMap (symbol p)).count true = p.t0h * bits.count false + p.t1h * bits.count true := by
  induction bits with
  | nil => rfl
  | cons b bits ih =>
    have hb : (symbol p b).count true = highTicks p b := by simp [symbol, List.count_replicate]
    rw [List.flatMap_cons, List.count_append, hb, ih]
    cases b <;> simp <;> ring

section
variable {p : Params} (hv : p.Valid)
include hv

/-- The level at each tick of a symbol: high for its first `TH(b)` ticks. -/
theorem getElem?_symbol (b : Bool) {j : Nat} (hj : j < p.tBit) :
    (symbol p b)[j]? = some (decide (j < highTicks p b)) := by
  have hsum := highTicks_add_lowTicks hv b
  rw [symbol, List.getElem?_append, List.length_replicate]
  split
  next h => simp [h]
  next h =>
    rw [List.getElem?_replicate_of_lt (by omega)]
    simp [h]

/-- Symbol `k` of a list of them begins at tick `k * TBIT`. -/
theorem getElem?_symbols {bits : List Bool} {k j : Nat} {b : Bool} (hb : bits[k]? = some b) (hj : j < p.tBit) :
    (bits.flatMap (symbol p))[k * p.tBit + j]? = (symbol p b)[j]? := by
  induction bits generalizing k with
  | nil => simp at hb
  | cons b' bits ih =>
    rw [List.flatMap_cons]
    cases k with
    | zero =>
      obtain rfl : b' = b := by simpa using hb
      rw [Nat.zero_mul, Nat.zero_add, List.getElem?_append_left (by rwa [symbol_length hv])]
    | succ k =>
      rw [Nat.succ_mul, List.getElem?_append_right (by rw [symbol_length hv]; omega), symbol_length hv,
        show k * p.tBit + p.tBit + j - p.tBit = k * p.tBit + j by omega]
      exact ih (by simpa using hb)

theorem frameSymbols_length (c : Color) : ((frameBits c).flatMap (symbol p)).length = 24 * p.tBit := by
  rw [symbols_length hv, frameBits_length]

/-- The symbol of frame bit `k` begins at tick `k * TBIT` of the frame. -/
theorem getElem?_frameWave_symbol {c : Color} {k j : Nat} {b : Bool} (hb : (frameBits c)[k]? = some b)
    (hj : j < p.tBit) : (frameWave p c)[k * p.tBit + j]? = some (decide (j < highTicks p b)) := by
  have h : ((frameBits c).flatMap (symbol p))[k * p.tBit + j]? = some (decide (j < highTicks p b)) :=
    (getElem?_symbols hv hb hj).trans (getElem?_symbol hv b hj)
  obtain ⟨hlt, -⟩ := List.getElem?_eq_some_iff.1 h
  rw [frameWave, List.getElem?_append_left hlt, h]

/-- The reset interval follows the 24 symbols. -/
theorem getElem?_frameWave_reset (c : Color) {j : Nat} (hj : j < p.tReset) :
    (frameWave p c)[24 * p.tBit + j]? = some false := by
  rw [frameWave, ← frameSymbols_length hv c, List.getElem?_append_right (Nat.le_add_right _ _), Nat.add_sub_cancel_left,
    resetWave, List.getElem?_replicate_of_lt hj]

end

/-- A frame is high in the high parts of its symbols alone. -/
theorem count_true_frameWave (p : Params) (c : Color) :
    (frameWave p c).count true = p.t0h * (frameBits c).count false + p.t1h * (24 - (frameBits c).count false) := by
  have hsum : (frameBits c).count false + (frameBits c).count true = 24 :=
    (List.count_not_add_count (frameBits c) true).trans (frameBits_length c)
  rw [frameWave, List.count_append, count_true_symbols, resetWave, ← hsum, Nat.add_sub_cancel_left]
  simp [List.count_replicate]

/-- Settles O9: a frame is its 24 symbols and its reset interval, tick for tick. -/
theorem frameWaveTickForTick : Obligations.FrameWaveTickForTick := fun p c hv =>
  ⟨frameWave_length hv c, fun _ _ _ => getElem?_frameWave_symbol hv, fun _ => getElem?_frameWave_reset hv c,
    pulseWidths_frameWave hv c, count_true_frameWave p c⟩

end Sys2Proof

namespace Sys2Proof.Machine

open Sys2Proof.Safety

/-! ## The rows of the transmitter -/

section
variable (s : State) (b : Bool)

/-- The row of the symbol of bit `b` is its tick (R133, R134). -/
theorem exec_symbol : exec (if b then .sym1 else .sym0) s = .next (symbolTick b s) := by
  cases b <;> rfl

/-- The row of the reset interval is its tick (R135). -/
theorem exec_reset : exec .reset s = .next (gapTick s) := rfl

end

/-- Settles O19: the load of R138, with `seq` at `RENDER`. -/
theorem renderLoadsTheFrame : Obligations.RenderLoadsTheFrame := by
  intro s c hp
  rcases execRender_cases c s with ⟨-, e⟩ | ⟨hn, -⟩
  · exact e
  · exact absurd hp hn

section
variable {s : State}

theorem renderTick_symbol (hp : s.phase = .hi ∨ s.phase = .lo) : renderTick s = symbolTick s.presentBit s := by
  rcases hp with hp | hp <;> rw [renderTick, hp]

theorem renderTick_gap (hp : s.phase = .gap) : renderTick s = gapTick s := by
  rw [renderTick, hp]

theorem symbol_phase (hi : s.phase ≠ .idle) (hg : s.phase ≠ .gap) : s.phase = .hi ∨ s.phase = .lo := by
  rcases hp : s.phase with _ | _ | _ | _ <;> simp_all

theorem ne_idle_of_symbol (hp : s.phase = .hi ∨ s.phase = .lo) : s.phase ≠ .idle := by
  rcases hp with hp | hp <;> simp [hp]

/-- The tick of a render in flight is the row of its present symbol. -/
theorem exec_presentSymbol (hp : s.phase = .hi ∨ s.phase = .lo) :
    exec (if s.presentBit then .sym1 else .sym0) s = .next (renderTick s) := by
  rw [renderTick_symbol hp, exec_symbol]

theorem exec_reset_of_gap (hp : s.phase = .gap) : exec .reset s = .next (renderTick s) := by
  rw [renderTick_gap hp, exec_reset]

end

/-- Settles O20: a second `RENDER` is the tick of the render in flight, and that is the row of its element. -/
theorem secondRenderWaits : Obligations.SecondRenderWaits := by
  intro s c hi
  rcases execRender_cases c s with ⟨hp, -⟩ | ⟨-, e⟩
  · exact absurd hp hi
  refine ⟨renderTick s, e, exec_reset_of_gap, fun hg hb => ?_, fun hg hb => ?_⟩ <;>
    rw [← exec_presentSymbol (symbol_phase hi hg), State.presentBit, hb] <;>
    rfl

/-- Settles O28: an edge of a block at work is its tick, which is the row of its element. -/
theorem stepRunsTheLineElement : Obligations.StepRunsTheLineElement := by
  intro s hv hr hq
  refine ⟨fun hp => ?_, fun hp => ?_⟩
  · rw [step_of_busy hv hr hq (ne_idle_of_symbol hp)]
    exact congrArg endEdge (exec_presentSymbol hp).symm
  · rw [step_of_busy hv hr hq (by simp [hp]), exec_reset_of_gap hp, endEdge]

/-! ### One tick of each phase -/

section
variable {s : State} (b : Bool)

theorem underrunSeen_eq_false (h : s.seq = .render → s.port.underrun = false) : s.underrunSeen = false :=
  Bool.eq_false_of_not_eq_true fun hu =>
    have ⟨hq, hu⟩ := (underrunSeen_iff s).1 hu
    absurd hu (by simp [h hq])

theorem symbolTick_hi (hp : s.phase = .hi) (hu : s.underrunSeen = false) :
    symbolTick b s = if 1 < s.tick then s.countDown else s.beginLow b := by
  simp [symbolTick, hp, hu]

theorem symbolTick_lo (hp : s.phase = .lo) (hu : s.underrunSeen = false) :
    symbolTick b s = if 1 < s.tick then s.countDown else endSymbol s := by
  simp [symbolTick, hp, hu]

theorem gapTick_gap (hp : s.phase = .gap) : gapTick s = if 1 < s.tick then s.countDown else endGap s := by
  simp [gapTick, hp]

/-- Outside `HI` and `LO` a symbol is not in progress (R142). -/
theorem symbolTick_not_in_progress (hp : s.phase = .gap ∨ s.phase = .idle) : symbolTick b s = s := by
  rcases hp with hp | hp <;> rw [symbolTick, hp]

/-- Outside `GAP` no reset interval is in progress (R142). -/
theorem gapTick_not_in_progress (hp : s.phase ≠ .gap) : gapTick s = s := by
  rcases gapTick_cases s with ⟨h, -⟩ | ⟨h, -⟩ | ⟨-, e⟩
  · exact absurd h hp
  · exact absurd h hp
  · exact e

end

/-- Settles O21: in `HI` a symbol's tick counts down or begins its low part, and a render's edge is that of its present bit. -/
theorem highPartTick : Obligations.HighPartTick := by
  intro s hp hu
  have htick (b : Bool) := symbolTick_hi b hp (underrunSeen_eq_false hu)
  refine ⟨fun ht => ?_, fun ht => ?_, fun hv hr hq => ?_⟩
  · have h (b : Bool) : symbolTick b s = s.countDown := by rw [htick, if_pos ht]
    exact ⟨congrArg _ (h false), congrArg _ (h true)⟩
  · have h (b : Bool) : symbolTick b s = s.beginLow b := by rw [htick, if_neg (by omega)]
    exact ⟨congrArg _ (h false), congrArg _ (h true)⟩
  · rw [step_of_busy hv hr (by simp [hq]) (by simp [hp]), renderTick_symbol (.inl hp), htick]
    rfl

/-- Settles O22: in `LO` a symbol's tick counts down or ends the symbol, whichever symbol it is. -/
theorem lowPartTick : Obligations.LowPartTick := by
  intro s hp hu i hi
  have htick (b : Bool) := symbolTick_lo b hp (underrunSeen_eq_false hu)
  have hexec : exec i s = .next (if 1 < s.tick then s.countDown else endSymbol s) := by
    rcases hi with rfl | rfl
    · exact congrArg _ (htick false)
    · exact congrArg _ (htick true)
  refine ⟨fun ht => ?_, fun ht hb => ?_, fun ht hb => ?_⟩
  · rw [hexec, if_pos ht]
    rfl
  · rw [hexec, if_neg (by omega), endSymbol, if_pos hb]
    rfl
  · rw [hexec, if_neg (by omega), endSymbol, if_neg hb]
    rfl

/-- Settles O24: in `GAP` the tick counts down or ends the interval, and at tick 1 of a render it returns to `WAIT`. -/
theorem resetIntervalTick : Obligations.ResetIntervalTick := by
  intro s hp
  refine ⟨fun ht => ?_, fun ht hq => ?_, fun ht hn => ?_⟩ <;> rw [exec_reset, gapTick_gap hp]
  · rw [if_pos ht]
    rfl
  · rw [if_neg (by omega)]
    rcases endGap_cases s with ⟨-, -, e⟩ | ⟨h, -⟩
    · rw [e]
      rfl
    · exact absurd h (by simp [hq, ht])
  · rw [if_neg (by omega)]
    rcases endGap_cases s with ⟨hq, h1, -⟩ | ⟨-, e⟩
    · exact absurd hn (by simp [hq, h1])
    · rw [e]
      rfl

/-- Settles O25: the ticks of elements that are not in progress. -/
theorem elementsNotInProgressChangeNothing : Obligations.ElementsNotInProgressChangeNothing := by
  intro s
  have hsym (hp : s.phase = .gap ∨ s.phase = .idle) (b : Bool) : exec (if b then .sym1 else .sym0) s = .next s := by
    rw [exec_symbol, symbolTick_not_in_progress b hp]
  have hgap (hp : s.phase ≠ .gap) : exec .reset s = .next s := by
    rw [exec_reset, gapTick_not_in_progress hp]
  refine ⟨fun hp => ⟨hsym (.inr hp) false, hsym (.inr hp) true, hgap (by simp [hp])⟩,
    fun hp => ⟨hsym (.inl hp) false, hsym (.inl hp) true⟩, fun hp => hgap ?_⟩
  rcases hp with hp | hp <;> simp [hp]

/-! ## The arrows of `phase` and `seq` -/

/-- In a state of R35 a part that is at its end is at tick 1. -/
theorem tick_eq_one {s : State} (h : Inv s) (hp : s.phase ≠ .idle) (ht : s.tick ≤ 1) : s.tick = 1 := by
  rcases hp' : s.phase with _ | _ | _ | _
  case idle => exact absurd hp' hp
  case hi =>
    obtain ⟨-, -, h1, -⟩ := h.hi hp'
    exact le_antisymm ht h1
  case lo =>
    obtain ⟨-, -, h1, -⟩ := h.lo hp'
    exact le_antisymm ht h1
  case gap => exact le_antisymm ht (h.gap hp').1

/-- In a state of R35 that sends another symbol than the last, more than one is left. -/
theorem one_lt_bitcnt {s : State} (h : Inv s) (hp : s.phase = .lo) (hb : s.bitcnt ≠ 1) : 1 < s.bitcnt.toNat := by
  have hne : s.bitcnt.toNat ≠ 1 := fun e => hb (BitVec.eq_of_toNat_eq e)
  have hpos := (h.lo hp).1
  omega

/-- Settles O42, by the cases of what the edge does; the invariant gives the tick and the count at the end of a part. -/
theorem phasesAndSequencerFollowTheirArrows : Obligations.PhasesAndSequencerFollowTheirArrows := by
  intro s t h hr hs
  obtain ⟨-, u, hu, rfl⟩ := edge_of_step hs
  have htick := tick_eq_one h
  cases hu with
  | reset hr' => simp [hr] at hr'
  | accept d _ hc =>
    obtain ⟨hq, hp⟩ := (cmdReady_iff s).1 hc
    cases d <;> simp [acceptRead, hq, hp]
  | move _ _ hm =>
    cases hm with
    | stay => simp
    | diagReturn hq => simp [hq]
    | abort _ hp hu => simp [hp, hu]
    | count => simp
    | highEnd _ hp _ ht => simp [hp, htick (by simp [hp]) ht]
    | lastSymbolEnd _ hp _ ht hb => simp [hp, htick (by simp [hp]) ht, hb]
    | symbolEnd _ hp _ ht hb => simp [hp, htick (by simp [hp]) ht, one_lt_bitcnt h hp hb]
    | renderEnd hq hp ht => simp [hq, hp, ht]
    | gapEnd _ _ hp ht => simp [hp, htick (by simp [hp]) ht]

/-! ## A symbol, tick for tick -/

@[simp] theorem registers_later (s : State) (n : Nat) : registers (s.later n) = registers s := rfl

/-- Settles O46: the run of a symbol ends as R140 has it. -/
theorem symbolIsSentTickForTick : Obligations.SymbolIsSentTickForTick := by
  rintro s b hv hq hp rfl ht hr hu
  have h := run_symbol hv (by simp [hq]) hp ht hr hu
  refine ⟨h.levels_eq, ?_⟩
  rw [h.after_eq, registers_later]
  rcases endSymbol_cases s with ⟨hb, e⟩ | ⟨hb, e⟩
  · rw [e, if_pos hb, ← hq]
    rfl
  · rw [e, if_neg hb, ← hq]
    rfl

/-! ## A render that no underrun ends -/

/-- A render is under way within R35, and no underrun has ended it. -/
structure Rendering (s : State) : Prop where
  valid : s.params.Valid
  inv : Inv s
  seq : s.seq = .render
  fail : s.fail = false

theorem rendering_startRender {s : State} (hv : s.params.Valid) (c : Color) : Rendering (startRender c s) :=
  ⟨hv, inv_startRender hv c, rfl, rfl⟩

section
variable {s t : State}

/-- An edge of a render is a move of the transmitter. -/
theorem Rendering.move (h : Rendering s) (hr : s.port.rst = false) (hs : step s = .next t) :
    ∃ u, Move s u ∧ t = u.advance := by
  obtain ⟨-, u, hu, rfl⟩ := edge_of_step hs
  cases hu with
  | reset hr' => simp [hr] at hr'
  | accept _ _ hc => simp [State.cmdReady, h.seq] at hc
  | move _ _ hm => exact ⟨u, hm, rfl⟩

/-- `done` marks the interval whose edge ends the render (R145, R176). -/
theorem Rendering.done_iff (h : Rendering s) (hr : s.port.rst = false) (hs : step s = .next t) :
    s.done = true ↔ t.phase = .idle := by
  obtain ⟨u, hm, rfl⟩ := h.move hr hs
  have hq := h.seq
  cases hm with
  | stay _ hp => exact absurd hp (h.inv.render hq)
  | diagReturn hd => simp [hq] at hd
  | abort _ hp => rcases hp with hp | hp <;> simp [State.done, hp]
  | count _ hp _ ht => simp [State.done, hp, ht.ne']
  | highEnd _ hp => simp [State.done, hp]
  | lastSymbolEnd _ hp => simp [State.done, hp]
  | symbolEnd _ hp => simp [State.done, hp]
  | renderEnd _ hp ht => simp [State.done, hq, hp, ht]
  | gapEnd _ _ hp ht => simp [State.done, hq, hp, tick_eq_one h.inv (by simp [hp]) ht]

/-- An edge with no underrun that does not end the render leaves it under way. -/
theorem Rendering.of_step (h : Rendering s) (hr : s.port.rst = false) (hu : s.port.underrun = false)
    (hs : step s = .next t) (hp : t.phase ≠ .idle) : Rendering t := by
  have hinv := stepKeepsTheInvariant s t h.inv hs
  obtain ⟨u, hm, rfl⟩ := h.move hr hs
  have hfail : u.fail = false := by simp [hm.fail_eq, hu, h.fail]
  have hq := h.seq
  cases hm with
  | diagReturn hd => simp [hq] at hd
  | renderEnd => simp at hp
  | _ => exact ⟨h.valid, hinv, hq, hfail⟩

/-- Over a render's intervals `done` comes in the last one only, and `fail` in none (R145, R146). -/
theorem Rendering.done_and_fail {n : Nat} (h : Rendering s) (hr : NoReset s 0 n) (hu : NoUnderrun s 0 n)
    (hb : ∀ k, k < n → (after k s).phase ≠ .idle) (he : (after n s).phase = .idle) :
    ∀ k, k < n → ((after k s).done = true ↔ k + 1 = n) ∧ (after k s).fail = false := by
  induction n generalizing s with
  | zero => exact fun _ hk => absurd hk (Nat.not_lt_zero _)
  | succ n ih =>
    have hr0 : s.port.rst = false := hr.rst_port n.succ_pos
    have hu0 : s.port.underrun = false := port_eq_inputAt s ▸ hu 0 le_rfl (by omega)
    obtain ⟨u, -, hs⟩ := exists_edge h.valid
    have hafter := after_succ_of_step hs
    have hlast : u.advance.phase = .idle ↔ n = 0 := by
      refine ⟨fun hi => ?_, fun hn => ?_⟩
      · by_contra hn
        exact hb 1 (by omega) (by rw [hafter 0, after, hi])
      · subst hn
        rwa [hafter 0] at he
    intro k hk
    cases k with
    | zero => exact ⟨(h.done_iff hr0 hs).trans (hlast.trans (by omega)), h.fail⟩
    | succ k =>
      have ht : Rendering u.advance := h.of_step hr0 hu0 hs (hlast.not.2 (by omega))
      have hrest := ih ht (fun j _ hj => inputAt_of_step hs j ▸ hr (j + 1) (Nat.zero_le _) (by omega))
        (fun j _ hj => inputAt_of_step hs j ▸ hu (j + 1) (Nat.zero_le _) (by omega))
        (fun j hj => hafter j ▸ hb (j + 1) (by omega)) (hafter n ▸ he) k (by omega)
      rw [hafter, Nat.add_right_cancel_iff]
      exact hrest

end

/-- Settles O47: the render of the command runs to its end, and is under way within R35 until then. -/
theorem acceptedCommandIsSentWhole : Obligations.AcceptedCommandIsSentWhole := by
  intro s buf c hv hc hp hd hr hu
  have h := run_command hv hc hp hd hr hu
  have hone := after_one_of_command hv (hr.rst_port (by omega)) hc hp hd
  have hrend : Rendering (after 1 s) := hone ▸ rendering_startRender (s := s.later 1) hv c
  have hports := hrend.done_and_fail (n := s.params.frameTicks)
    (hone ▸ NoReset.later (s := s) hr (Nat.zero_le _) (by omega))
    (hone ▸ NoUnderrun.later (s := s) hu le_rfl (by omega)) h.busy (h.after_eq ▸ rfl)
  refine ⟨h.levels_eq, fun k hk => ?_, ?_⟩
  · obtain ⟨hdone, hfail⟩ := hports k hk
    rw [after_add]
    exact ⟨hdone, cmdReady_of_busy (h.busy k hk), hfail⟩
  · rw [after_add, h.after_eq]
    rfl

/-! ## A render that an underrun ends -/

/-- The edge of the abort (R143, R200). -/
theorem renderTick_abort {s : State} (hp : s.phase = .hi ∨ s.phase = .lo) (hu : s.underrunSeen = true) :
    renderTick s = raise .transmissionFailure s := by
  rw [renderTick_symbol hp]
  rcases hp with hp | hp <;> simp [symbolTick, hp, hu]

/-- The interval after that edge. -/
def State.aborted (s : State) : State := (raise .transmissionFailure s).later 1

theorem after_one_of_abort {s : State} (hv : s.params.Valid) (hr : s.port.rst = false) (hq : s.seq = .render)
    (hp : s.phase = .hi ∨ s.phase = .lo) (hu : s.port.underrun = true) : after 1 s = s.aborted := by
  have hstep := step_of_busy hv hr (by simp [hq]) (ne_idle_of_symbol hp)
  rw [renderTick_abort hp ((underrunSeen_iff s).2 ⟨hq, hu⟩), advance_eq_later] at hstep
  exact after_succ_of_step hstep 0

/-- `done` over the reset interval of a render (R145). -/
theorem done_counted {s : State} (hq : s.seq = .render) (hp : s.phase = .gap) (k : Nat) :
    (s.counted k).done = true ↔ s.tick - k = 1 := by
  simp [State.done, State.counted, hq, hp]

/-- Settles O51: the abort begins a whole reset interval, whose ticks keep `fail`. -/
theorem abortedFrameIsReportedAndTheLoopGoesOn : Obligations.AbortedFrameIsReportedAndTheLoopGoesOn := by
  intro s hv hq hp hu hr
  have hone := after_one_of_abort hv (hr.rst_port (by omega)) hq hp hu
  have hrg : NoReset s.aborted 0 s.params.tReset :=
    NoReset.later (s := raise .transmissionFailure s) hr (Nat.zero_le _) (by omega)
  have hqg : s.aborted.seq = .render := hq
  refine ⟨fun k hk => ?_, ?_⟩
  · have hrun := run_counted (s := s.aborted) hv (by simp [hqg]) Phase.noConfusion (hrg.mono le_rfl (by omega))
      (absurd rfl) hk
    rw [after_add, hone, hrun.after_eq]
    refine ⟨rfl, rfl, (done_counted hqg rfl k).trans ?_⟩
    have htick : s.aborted.tick = s.params.tReset := rfl
    omega
  · have hrun := run_gap (s := s.aborted) hv hqg rfl (tReset_pos hv) hrg
    rw [after_add, hone]
    exact congrArg registers hrun.after_eq

end Sys2Proof.Machine

/-! The obligations of 42_sequencer.md: an accept edge, `DIAG` and waiting, one edge against the listing of R182, runs that never
stop, and the ticks until the block is ready. -/

namespace Sys2Proof.Machine

open Sys2Proof.Safety

/-! ## An accept edge -/

/-- Settles O16: a ready block begins the render of the Color. -/
theorem setrgbLoadsTheFrame : Obligations.SetrgbLoadsTheFrame := by
  intro s rh rl gh gl bh bl hc
  have hexec : exec (.setrgb rh rl gh gl bh bl) s = .next (startRender (commandColor rh rl gh gl bh bl) s) := if_pos hc
  rw [hexec]
  rfl

/-- A ready block raises the error of a failed decode (R173). -/
theorem acceptError_of_ready {s : State} (hc : s.cmdReady = true) (e : DecodeError) :
    acceptError e s = raise (.decode e) s :=
  if_pos hc

/-- Settles O17: both rows raise their error. -/
theorem decodeErrorEntersDiag : Obligations.DecodeErrorEntersDiag := by
  refine fun s hc => ⟨fun len hl => ?_, fun b0 b1 b2 b3 b4 b5 => ?_⟩
  · rw [exec, execIllegalWronglength, if_neg hl, acceptError_of_ready hc]
    rfl
  · rw [exec, execIllegalInvaliddigit, acceptError_of_ready hc]
    rfl

/-- Settles O27: the edge fetches the decoded read, which by its length alone is of the wrong length or six bytes. -/
theorem stepRunsThePresentedRead : Obligations.StepRunsThePresentedRead := by
  intro s hv hr hc hval
  have hstep (hl : s.port.cmdLen ≠ 0) :
      step s = endEdge (exec (decodeRead (s.port.cmdData.readBytes 0 s.port.cmdLen)) s) :=
    step_of_fetch_some hv hr (fetch_of_presented hv hc hval hl)
  refine ⟨fun h6 => ?_, fun h6 h0 => ?_⟩
  · rw [hstep (by simp [h6]), h6]
    rfl
  · rw [hstep h0, decodeRead_length (by simpa using h6), Memory.length_readBytes]

/-! ## `DIAG` and waiting -/

/-- Settles O30: `DIAG` fetches nothing, and its plain edge is the return. -/
theorem diagLastsOneEdge : Obligations.DiagLastsOneEdge := by
  intro s hv hr hq
  have hf : fetch s = .ok none := by simp [fetch, hq]
  have hp : plainEdge s = returnToWait s := by simp [plainEdge, hq]
  refine ⟨by simp [State.diagValid, hq], rfl, ?_⟩
  rw [step_of_fetch_none hv hr hf, hp]
  rfl

/-- The only move of a ready block is to stay. -/
theorem Move.eq_of_ready {s u : State} (hm : Move s u) (hc : s.cmdReady = true) : u = s := by
  obtain ⟨hq, hp⟩ := (cmdReady_iff s).1 hc
  cases hm with
  | stay => rfl
  | diagReturn h | abort h | renderEnd h => simp [hq] at h
  | count _ h => exact absurd hp h
  | highEnd _ h | lastSymbolEnd _ h | symbolEnd _ h | gapEnd _ _ h => simp [hp] at h

/-- An edge at which a ready block accepts no read only spends its input (R174, R178). -/
theorem step_of_not_accepted {s : State} (hv : s.params.Valid) (hr : s.port.rst = false) (hc : s.cmdReady = true)
    (ha : accepted s = none) : step s = .next s.advance := by
  obtain ⟨u, hu, hs⟩ := exists_edge hv
  cases hu with
  | reset hr' => simp [hr] at hr'
  | accept d _ _ ha' => simp [ha] at ha'
  | move _ _ hm => rwa [hm.eq_of_ready hc] at hs

/-- Settles O31: neither an empty read nor an absent one is accepted. -/
theorem waitingChangesNoRegister : Obligations.WaitingChangesNoRegister := by
  refine fun s hv hr hc => ⟨fun _ hl => ⟨?_, rfl⟩, fun hval => ⟨s.advance, ?_, rfl⟩⟩
  · exact step_of_not_accepted hv hr hc (accepted_of_not_presented (.inr hl))
  · exact step_of_not_accepted hv hr hc (accepted_of_not_presented (.inl hval))

/-- The interval after a bad read is accepted, and the one after that (R173, R175). -/
theorem after_of_bad_read {s : State} {buf : List Byte} {e : DecodeError} (hv : s.params.Valid) (hc : s.cmdReady = true)
    (hp : Presents s 0 buf) (hne : buf ≠ []) (hd : decodeResult buf = .error e) (hr : NoReset s 0 2) :
    after 1 s = (raise (.decode e) s).later 1 ∧ after 2 s = (returnToWait (raise (.decode e) s)).later 2 := by
  obtain ⟨hval, hlen, hdat⟩ := hp
  rw [← port_eq_inputAt] at hval hlen hdat
  have hstep := step_of_presented hv (hr.rst_port (by omega)) hc hval (by simpa [hlen] using hne)
  rw [hlen, hdat, hd, acceptRead, advance_eq_later] at hstep
  have hr' : ((raise (.decode e) s).later 1).port.rst = false :=
    (NoReset.later (s := raise (.decode e) s) (m := 1) hr (Nat.zero_le _) (by omega)).rst_port Nat.one_pos
  obtain ⟨-, -, hstep'⟩ := diagLastsOneEdge ((raise (.decode e) s).later 1) hv hr' rfl
  refine ⟨after_succ_of_step hstep 0, ?_⟩
  rw [after_succ_of_step hstep 1, after_succ_of_step hstep' 0, after, advance_eq_later]
  exact later_later (returnToWait (raise (.decode e) s)) 1 1

/-- Settles O52: the error is raised at the first edge, and the second returns to `WAIT`. -/
theorem badReadGivesOneDiagnosticPulse : Obligations.BadReadGivesOneDiagnosticPulse := by
  intro s buf e hv hc hp hne hd hr
  obtain ⟨hq, hi⟩ := (cmdReady_iff s).1 hc
  obtain ⟨h1, h2⟩ := after_of_bad_read hv hc hp hne hd hr
  have hlow : s.dout = false := by simp [State.dout, hi]
  have hready : (after 2 s).cmdReady = true := (cmdReady_iff _).2 (h2 ▸ ⟨rfl, hi⟩)
  rw [h2] at hready ⊢
  rw [h1]
  refine ⟨rfl, ?_, hlow, rfl, ?_, hready, hlow, rfl⟩
  · cases e <;> rfl
  · rw [registers, registers, hq]
    cases e <;> rfl

/-! ## One edge against the listing of R182 -/

/-- What an accept edge decodes (R171). -/
theorem decodeResult_of_accepted {s : State} {d : Except DecodeError Color} (ha : accepted s = some d) :
    (s.port.cmdValid = true ∧ s.port.cmdLen ≠ 0) ∧
      decodeResult (s.port.cmdData.readBytes 0 s.port.cmdLen) = d := by
  rw [accepted] at ha
  split at ha
  next h =>
    obtain ⟨-, -, hpres⟩ := h
    exact ⟨hpres, Option.some.inj ha⟩
  next => cases ha

/-- A ready block that accepts no read has none presented, or an empty one. -/
theorem not_presented_of_not_accepted {s : State} (hr : s.port.rst = false) (hc : s.cmdReady = true)
    (ha : accepted s = none) : ¬(s.port.cmdValid = true ∧ s.port.cmdLen ≠ 0) := by
  rintro ⟨hval, hl⟩
  simp [accepted_of_presented hr hc hval hl] at ha

/-- The listing at an accept edge. -/
theorem listedStep_accept {s : State} {d : Except DecodeError Color} (hr : s.port.rst = false) (hc : s.cmdReady = true)
    (ha : accepted s = some d) :
    listedStep s.params s.port (registers s) = registers (acceptRead d s) := by
  obtain ⟨hq, hp⟩ := (cmdReady_iff s).1 hc
  obtain ⟨hpres, hd⟩ := decodeResult_of_accepted ha
  rcases d with e | c
  · cases e <;> simp [listedStep, registers, hr, hq, hp, hpres, hd, acceptRead, errOf]
  · simp [listedStep, registers, hr, hq, hp, hpres, hd, acceptRead, Color.word, firstBit, highTicks]

/-- The listing while the transmitter is at work: R150 with the underrun that the abort looks at, and the return to `WAIT` where
the render is finished. -/
theorem listedStep_busy {s : State} (hr : s.port.rst = false) (hq : s.seq ≠ .diag) (hp : s.phase ≠ .idle) :
    listedStep s.params s.port (registers s) =
      if s.seq = .render ∧ s.phase = .gap ∧ s.tick = 1 then
        { (listedAdvance s.params s.underrunSeen (registers s)).1 with seq := .wait }
      else (listedAdvance s.params s.underrunSeen (registers s)).1 := by
  rcases hs : s.seq with _ | _ | _
  case diag => exact absurd hs hq
  case wait => simp [listedStep, hr, registers, hs, hp, State.underrunSeen]
  case render => simp [listedStep, listedAdvance, hr, registers, hs, State.underrunSeen]

/-- The listing at an edge that is neither a reset nor an accept edge. -/
theorem listedStep_move {s u : State} (hr : s.port.rst = false) (ha : accepted s = none) (hm : Move s u) :
    listedStep s.params s.port (registers s) = registers u := by
  cases hm with
  | stay hq hp =>
    rcases hs : s.seq with _ | _ | _
    case diag => exact absurd hs hq
    case wait =>
      have hn := not_presented_of_not_accepted hr ((cmdReady_iff s).2 ⟨hs, hp⟩) ha
      simp [listedStep, hr, registers, hs, hp, hn]
    case render => simp [listedStep, listedAdvance, hr, registers, hs, hp]
  | diagReturn hq => simp [listedStep, hr, registers, hq]
  | abort hq hp hu =>
    have hseen := (underrunSeen_iff s).2 ⟨hq, hu⟩
    rw [listedStep_busy hr (by simp [hq]) (by rcases hp with hp | hp <;> simp [hp])]
    rcases hp with hp | hp <;> simp [listedAdvance, registers, hp, hseen]
  | count hq hp hu ht =>
    rw [listedStep_busy hr hq hp, if_neg (by omega)]
    rcases hp' : s.phase with _ | _ | _ | _
    case idle => exact absurd hp' hp
    case hi | lo => simp [listedAdvance, registers, hp', hu (by simp [hp']), ht]
    case gap => simp [listedAdvance, registers, hp', ht]
  | highEnd hq hp hu ht =>
    rw [listedStep_busy hr hq (by simp [hp])]
    simp [listedAdvance, registers, hp, hu, Nat.not_lt.2 ht, lowTicks, State.presentBit]
  | lastSymbolEnd hq hp hu ht hb =>
    rw [listedStep_busy hr hq (by simp [hp])]
    simp [listedAdvance, registers, hp, hu, Nat.not_lt.2 ht, hb]
  | symbolEnd hq hp hu ht hb =>
    have hb' : ¬s.bitcnt = 1#5 := hb
    rw [listedStep_busy hr hq (by simp [hp])]
    simp [listedAdvance, registers, hp, hu, Nat.not_lt.2 ht, hb', highTicks, State.nextBit]
  | renderEnd hq hp ht =>
    rw [listedStep_busy hr (by simp [hq]) (by simp [hp]), if_pos ⟨hq, hp, ht⟩]
    simp [listedAdvance, registers, hp, ht]
  | gapEnd hq hn hp ht =>
    rw [listedStep_busy hr hq (by simp [hp]), if_neg fun ⟨hs, _, h1⟩ => hn.elim (absurd hs) (absurd h1)]
    simp [listedAdvance, registers, hp, Nat.not_lt.2 ht]

/-- What an edge does is what the listing does. -/
theorem Edge.listedStep_eq {s u : State} (h : Edge s u) : listedStep s.params s.port (registers s) = registers u := by
  cases h with
  | reset hr => simp [listedStep, hr, registers]
  | accept d hr hc ha => exact listedStep_accept hr hc ha
  | move hr ha hm => exact listedStep_move hr ha hm

/-- Settles O33: every edge follows the listing and writes nothing of the environment. -/
theorem stepFollowsTheListing : Obligations.StepFollowsTheListing := by
  intro s hv
  obtain ⟨u, hu, hs⟩ := exists_edge hv
  have henv := hu.sameEnvironment
  exact ⟨u.advance, hs, hu.listedStep_eq.symm, henv.params, congrArg (· + 1) henv.edge, inputAt_of_step hs⟩

/-! ## Runs -/

/-- One step of a run of the machine behind the host's interface. -/
theorem run_succ_of_step {s t : State} (h : step s = .next t) (k : Nat) :
    Sys2Proof.core.run (k + 1) s = Sys2Proof.core.run k t := by
  have hs : Sys2Proof.core.step s = .next t := h
  simp [Host.Core.run, hs]

/-- Settles O35: every step answers and keeps the parameters. -/
theorem noRunStops : Obligations.NoRunStops := by
  intro k
  induction k with
  | zero => exact fun _ _ => rfl
  | succ k ih =>
    intro s hv
    obtain ⟨t, hs, -, hp, -⟩ := stepFollowsTheListing s hv
    rw [run_succ_of_step hs, after_succ_of_step hs]
    exact ih t (hp ▸ hv)

/-! ## The ticks until the block is ready -/

/-- How many edges the block is from being ready, with no reset and no underrun: the ticks left of the part in progress, of its
symbol, of the symbols after it, and of the reset interval (R180). -/
def State.ticksToReady (s : State) : Nat :=
  match s.phase with
  | .idle => if s.seq = .diag then 1 else 0
  | .gap => s.tick
  | .lo => s.tick + (s.bitcnt.toNat - 1) * s.params.tBit + s.params.tReset
  | .hi => s.tick + lowTicks s.params s.presentBit + (s.bitcnt.toNat - 1) * s.params.tBit + s.params.tReset

section
variable {s : State}

theorem ticksToReady_idle (hp : s.phase = .idle) : s.ticksToReady = if s.seq = .diag then 1 else 0 := by
  rw [State.ticksToReady, hp]

theorem ticksToReady_gap (hp : s.phase = .gap) : s.ticksToReady = s.tick := by
  rw [State.ticksToReady, hp]

theorem ticksToReady_lo (hp : s.phase = .lo) :
    s.ticksToReady = s.tick + (s.bitcnt.toNat - 1) * s.params.tBit + s.params.tReset := by
  rw [State.ticksToReady, hp]

theorem ticksToReady_hi (hp : s.phase = .hi) :
    s.ticksToReady =
      s.tick + lowTicks s.params s.presentBit + (s.bitcnt.toNat - 1) * s.params.tBit + s.params.tReset := by
  rw [State.ticksToReady, hp]

/-- In a state of R35 that is at most a whole frame. -/
theorem ticksToReady_le (hv : s.params.Valid) (h : Inv s) : s.ticksToReady ≤ s.params.frameTicks := by
  have hF : s.params.frameTicks = s.params.tBit + 23 * s.params.tBit + s.params.tReset := by
    rw [Params.frameTicks, show frameBitCount = 23 + 1 from rfl, Nat.succ_mul, Nat.add_comm s.params.tBit]
  have hreset := tReset_pos hv
  have hbits : s.bitcnt.toNat ≤ 24 → (s.bitcnt.toNat - 1) * s.params.tBit ≤ 23 * s.params.tBit :=
    fun hb => Nat.mul_le_mul_right _ (by omega)
  have hsum := highTicks_add_lowTicks hv s.presentBit
  rcases hp : s.phase with _ | _ | _ | _
  case idle =>
    rw [ticksToReady_idle hp]
    split <;> omega
  case hi =>
    obtain ⟨-, hb, -, ht, -⟩ := h.hi hp
    have := hbits hb
    rw [ticksToReady_hi hp]
    omega
  case lo =>
    obtain ⟨-, hb, -, ht, -⟩ := h.lo hp
    have := hbits hb
    rw [ticksToReady_lo hp]
    omega
  case gap =>
    obtain ⟨-, ht, -⟩ := h.gap hp
    rw [ticksToReady_gap hp]
    omega

/-- A block of R35 with an idle transmitter is ready or in `DIAG`. -/
theorem seq_of_idle (h : Inv s) (hp : s.phase = .idle) (hc : s.cmdReady = false) : s.seq = .diag := by
  rcases hq : s.seq with _ | _ | _
  · simp [State.cmdReady, hq, hp] at hc
  · rfl
  · exact absurd hp (h.render hq)

theorem tick_pos (h : Inv s) (hp : s.phase ≠ .idle) : 1 ≤ s.tick :=
  (Nat.lt_or_ge 1 s.tick).elim Nat.le_of_lt fun ht => (tick_eq_one h hp ht).ge

/-- They hold the ticks left of the part in progress. -/
theorem tick_le_ticksToReady (hp : s.phase ≠ .idle) : s.tick ≤ s.ticksToReady := by
  rcases hp' : s.phase with _ | _ | _ | _
  case idle => exact absurd hp' hp
  case hi =>
    rw [ticksToReady_hi hp']
    omega
  case lo =>
    rw [ticksToReady_lo hp']
    omega
  case gap => rw [ticksToReady_gap hp']

/-- A block that is not ready has an edge to go. -/
theorem ticksToReady_pos (h : Inv s) (hc : s.cmdReady = false) : 0 < s.ticksToReady := by
  by_cases hp : s.phase = .idle
  · rw [ticksToReady_idle hp, if_pos (seq_of_idle h hp hc)]
    exact Nat.one_pos
  · exact (tick_pos h hp).trans (tick_le_ticksToReady hp)

/-- The ticks of the symbols left, the next one taken out. -/
theorem symbolTicks_succ {n t : Nat} (hn : 1 < n) : (n - 1) * t = t + (n - 1 - 1) * t := by
  obtain ⟨m, rfl⟩ := Nat.exists_eq_add_of_le' hn
  rw [show m + (1 + 1) - 1 = m + 1 from rfl, Nat.succ_mul, Nat.add_comm, Nat.add_sub_cancel]

/-- Every move of a block that is not ready brings it nearer, the abort too. -/
theorem Move.ticksToReady_lt {u : State} (hm : Move s u) (hv : s.params.Valid) (h : Inv s) (hc : s.cmdReady = false) :
    u.ticksToReady < s.ticksToReady := by
  cases hm with
  | stay hq hp => exact absurd (seq_of_idle h hp hc) hq
  | diagReturn hq =>
    have hp := (h.diag hq).1
    rw [ticksToReady_idle hp, if_pos hq, ticksToReady_idle (s := returnToWait s) hp, if_neg (by simp)]
    exact Nat.one_pos
  | abort _ hp =>
    rw [ticksToReady_gap rfl, raise_transmission_tick]
    rcases hp with hp | hp
    · have := lowTicks_pos hv s.presentBit
      rw [ticksToReady_hi hp]
      omega
    · have ht := tick_pos h (by simp [hp])
      rw [ticksToReady_lo hp]
      omega
  | count _ hp _ ht =>
    have hlt : s.countDown.tick < s.tick := Nat.sub_lt (by omega) Nat.one_pos
    rcases hp' : s.phase with _ | _ | _ | _
    case idle => exact absurd hp' hp
    case hi =>
      rw [ticksToReady_hi hp', ticksToReady_hi (s := s.countDown) hp']
      exact Nat.add_lt_add_right (Nat.add_lt_add_right (Nat.add_lt_add_right hlt _) _) _
    case lo =>
      rw [ticksToReady_lo hp', ticksToReady_lo (s := s.countDown) hp']
      exact Nat.add_lt_add_right (Nat.add_lt_add_right hlt _) _
    case gap => rwa [ticksToReady_gap hp', ticksToReady_gap (s := s.countDown) hp']
  | highEnd _ hp =>
    have ht := tick_pos h (by simp [hp])
    rw [ticksToReady_hi hp, ticksToReady_lo rfl, beginLow_tick, beginLow_bitcnt, beginLow_params]
    omega
  | lastSymbolEnd _ hp =>
    have ht := tick_pos h (by simp [hp])
    rw [ticksToReady_lo hp, ticksToReady_gap rfl, beginGap_tick, shiftOut_params]
    omega
  | symbolEnd _ hp _ _ hb =>
    have ht := tick_pos h (by simp [hp])
    have hsum := highTicks_add_lowTicks hv s.nextBit
    have hn := one_lt_bitcnt h hp hb
    have hcnt : (s.bitcnt - 1).toNat = s.bitcnt.toNat - 1 := by bv_omega
    have hbit : (s.shiftOut.beginHigh s.nextBit).presentBit = s.nextBit := presentBit_shiftOut s
    rw [ticksToReady_lo hp, ticksToReady_hi rfl, hbit, symbolTicks_succ hn, beginHigh_bitcnt, shiftOut_bitcnt, hcnt,
      beginHigh_tick, beginHigh_params, shiftOut_params]
    omega
  | renderEnd _ hp =>
    rw [ticksToReady_gap hp, ticksToReady_idle rfl, if_neg (by simp)]
    exact tick_pos h (by simp [hp])
  | gapEnd hq _ hp =>
    rw [ticksToReady_gap hp, ticksToReady_idle rfl, beginIdle_seq, if_neg hq]
    exact tick_pos h (by simp [hp])

/-- A block that is not ready is nearer to it after an edge without reset. -/
theorem ticksToReady_lt_of_step {t : State} (h : Inv s) (hr : s.port.rst = false) (hc : s.cmdReady = false)
    (hs : step s = .next t) : t.ticksToReady < s.ticksToReady := by
  obtain ⟨hv, u, hu, rfl⟩ := edge_of_step hs
  cases hu with
  | reset hr' => simp [hr] at hr'
  | accept _ _ hc' => simp [hc] at hc'
  | move _ _ hm => exact hm.ticksToReady_lt hv h hc

/-- With no reset the block is ready within as many edges as it was away. -/
theorem exists_ready {n : Nat} (hv : s.params.Valid) (h : Inv s) (hn : s.ticksToReady ≤ n) (hr : NoReset s 0 n) :
    ∃ k, k ≤ n ∧ (after k s).cmdReady = true := by
  induction n generalizing s with
  | zero =>
    refine ⟨0, le_rfl, Bool.eq_true_of_not_eq_false fun hc => ?_⟩
    have := ticksToReady_pos h hc
    omega
  | succ n ih =>
    rcases hc : s.cmdReady with _ | _
    case true => exact ⟨0, Nat.zero_le _, hc⟩
    obtain ⟨t, hs, -, hp, -⟩ := stepFollowsTheListing s hv
    have hlt := ticksToReady_lt_of_step h (hr.rst_port n.succ_pos) hc hs
    obtain ⟨k, hk, hready⟩ := ih (hp ▸ hv) (stepKeepsTheInvariant s t h hs) (by omega)
      fun j _ hj => inputAt_of_step hs j ▸ hr (j + 1) (Nat.zero_le _) (by omega)
    exact ⟨k + 1, by omega, after_succ_of_step hs k ▸ hready⟩

end

/-- Settles O53: each edge brings the block nearer, and at first it is at most a frame away. -/
theorem everyStateReturnsToWaiting : Obligations.EveryStateReturnsToWaiting :=
  fun _ hv h hr => exists_ready hv h (ticksToReady_le hv h) hr

end Sys2Proof.Machine

/-! The obligations of 60_exceptions.md: the abort at an underrun, and the inputs that an edge does not look at. -/

namespace Sys2Proof.Machine

open Sys2Proof.Safety

/-! ## The abort at an underrun -/

/-- In `HI` and `LO` an underrun of a render wins over the tick, whichever symbol is asked for (R143, R198). -/
theorem symbolTick_abort {s : State} (b : Bool) (hp : s.phase = .hi ∨ s.phase = .lo) (hu : s.underrunSeen = true) :
    symbolTick b s = raise .transmissionFailure s := by
  rcases hp with hp | hp <;> rw [symbolTick, hp] <;> exact if_pos hu

/-- Settles O23: the tick of either symbol, and of a render in flight, raises the failure. -/
theorem underrunAbortsTheFrame : Obligations.UnderrunAbortsTheFrame := by
  intro s hq hp hu i hi
  have hseen : s.underrunSeen = true := (underrunSeen_iff s).2 ⟨hq, hu⟩
  have hexec : exec i s = .next (raise .transmissionFailure s) := by
    rcases hi with rfl | rfl | ⟨c, rfl⟩
    · exact congrArg _ (symbolTick_abort false hp hseen)
    · exact congrArg _ (symbolTick_abort true hp hseen)
    · rcases execRender_cases c s with ⟨hidle, -⟩ | ⟨-, e⟩
      · exact absurd hidle (ne_idle_of_symbol hp)
      · exact e.trans (congrArg _ (renderTick_abort hp hseen))
  rw [hexec]
  rfl

/-! ## The inputs that an edge does not look at -/

/-- A read is its bytes below its length (R51). -/
theorem Memory.readBytes_congr {m m' : Memory} {n : Nat} (h : ∀ a, a < n → m.read a = m'.read a) :
    m.readBytes 0 n = m'.readBytes 0 n :=
  List.map_congr_left fun a ha => by rw [Nat.zero_add, h a (List.mem_range.1 ha)]

/-- Outside `HI` and `LO` the transmitter does not look at `underrun` (R141, R142, R196). -/
theorem listedAdvance_congr {p : Params} {u u' : Bool} {r : Registers} (h : r.phase = .hi ∨ r.phase = .lo → u = u') :
    listedAdvance p u r = listedAdvance p u' r := by
  rcases hp : r.phase with _ | _ | _ | _
  case hi => rw [h (.inl hp)]
  case lo => rw [h (.inr hp)]
  case idle | gap => simp only [listedAdvance, hp]

/-- What the listing of R182 looks at: `rst`; `underrun` in `HI` and `LO` of a render (R196); and the presented read of a waiting
block, its bytes below `cmd_len` (R51). -/
theorem listedStep_congr {p : Params} {i i' : Input} {r : Registers} (hr : i.rst = i'.rst)
    (hu : r.seq = .render → r.phase = .hi ∨ r.phase = .lo → i.underrun = i'.underrun)
    (hc : r.seq = .wait → r.phase = .idle → i.cmdValid = i'.cmdValid ∧ (i.cmdValid = true →
      i.cmdLen = i'.cmdLen ∧ i.cmdData.readBytes 0 i.cmdLen = i'.cmdData.readBytes 0 i.cmdLen)) :
    listedStep p i r = listedStep p i' r := by
  rcases hq : r.seq with _ | _ | _
  case render => simp only [listedStep, hq, hr, listedAdvance_congr (hu hq)]
  case diag => simp only [listedStep, hq, hr]
  case wait =>
    by_cases hp : r.phase = .idle
    · obtain ⟨hval, hread⟩ := hc hq hp
      rcases hv : i.cmdValid with _ | _
      case false => simp [listedStep, hq, hr, hp, hv, ← hval]
      case true =>
        obtain ⟨hlen, hbytes⟩ := hread hv
        rw [hlen] at hbytes
        simp only [listedStep, hq, hr, hval, hbytes, hlen]
    · simp only [listedStep, hq, hr, if_neg hp]

/-- The registers after a step are those of the listing (R182). -/
theorem registers_of_step {s t : State} (h : step s = .next t) :
    registers t = listedStep s.params s.port (registers s) := by
  obtain ⟨-, u, hu, rfl⟩ := edge_of_step h
  exact hu.listedStep_eq.symm

/-- Settles O44: both steps follow the listing, which looks at no other input. -/
theorem inputsNotLookedAtHaveNoEffect : Obligations.InputsNotLookedAtHaveNoEffect := by
  intro s s' t t' hreg hpar hrst hund hread hs hs'
  rw [registers_of_step hs, registers_of_step hs', ← hreg, ← hpar]
  refine listedStep_congr hrst hund fun hq hp => ?_
  obtain ⟨hval, hsame⟩ := hread ((cmdReady_iff s).2 ⟨hq, hp⟩)
  exact ⟨hval, fun hv => (hsame hv).imp_right Memory.readBytes_congr⟩

end Sys2Proof.Machine

/-! The obligations of 70_reset_and_hazards.md: the edge with `rst = 1`, and the power-on gap after it. -/

namespace Sys2Proof.Machine

open Sys2Proof.Safety

/-! ## The reset edge -/

/-- With `rst = 1` no instruction runs (R220). -/
theorem step_of_reset {s : State} (hv : s.params.Valid) (hr : s.port.rst = true) :
    step s = .next (resetRegisters s).advance := by
  obtain ⟨-, hs⟩ | ⟨hr', -⟩ | ⟨hr', -⟩ := step_cases hv
  · exact hs
  · exact absurd (hr.symm.trans hr') Bool.noConfusion
  · exact absurd (hr.symm.trans hr') Bool.noConfusion

/-- Settles O32: the reset values stand, and the outputs are read off them (R32). -/
theorem resetWinsOverEverything : Obligations.ResetWinsOverEverything := fun _ hv hr =>
  ⟨_, step_of_reset hv hr, rfl, rfl, rfl, rfl, rfl, rfl, rfl, rfl, rfl, rfl, rfl, rfl, rfl, rfl⟩

/-! ## The power-on gap -/

/-- A reset interval that no render waits for ends in `IDLE` with `seq` kept (R141). -/
theorem run_waitGap {s : State} (hv : s.params.Valid) (hq : s.seq = .wait) (hp : s.phase = .gap) (ht : 1 ≤ s.tick)
    (hr : NoReset s 0 s.tick) : Run s.tick s (s.beginIdle.later s.tick) (List.replicate s.tick false) := by
  have he : ∀ k, s.tick = k + 1 → renderTick (s.counted k) = s.beginIdle.later k := by
    intro k hk
    rw [renderTick_gapEnd (s := s.counted k) hp (by simp [hk])]
    obtain ⟨h, -⟩ | ⟨-, e⟩ := endGap_cases (s.counted k)
    · exact absurd (hq.symm.trans h) Seq.noConfusion
    · exact e
  have h := run_phase hv (by simp [hq]) (by simp [hp]) ht hr (absurd hp) he
  simpa [State.dout, hp] using h

/-- The interval after a reset edge. -/
def State.poweredOn (s : State) : State := (resetRegisters s).later 1

theorem after_one_of_reset {s : State} (hv : s.params.Valid) (hr : s.port.rst = true) : after 1 s = s.poweredOn := by
  have hstep := step_of_reset hv hr
  rw [advance_eq_later] at hstep
  exact after_succ_of_step hstep 0

/-- Settles O50: the reset edge begins a whole reset interval in `WAIT`, whose ticks change `tick` alone. -/
theorem powerOnGapThenReady : Obligations.PowerOnGapThenReady := by
  intro s hv hr hn
  have hone := after_one_of_reset hv hr
  have hrg : NoReset s.poweredOn 0 s.params.tReset :=
    NoReset.later (s := resetRegisters s) hn le_rfl (by omega)
  refine ⟨fun k hk => ?_, ?_⟩
  · have hrun := run_counted (s := s.poweredOn) hv Seq.noConfusion Phase.noConfusion (hrg.mono le_rfl (by omega))
      (absurd rfl) hk
    rw [after_add, hone, hrun.after_eq]
    exact ⟨rfl, rfl, rfl, rfl⟩
  · have hrun := run_waitGap (s := s.poweredOn) hv rfl rfl (tReset_pos hv) hrg
    have hend : after (1 + s.params.tReset) s = s.poweredOn.beginIdle.later s.params.tReset := by
      rw [after_add, hone]
      exact hrun.after_eq
    rw [hend]
    exact ⟨rfl, rfl⟩

end Sys2Proof.Machine

namespace Sys2Proof

/-! ## One frame read back -/

/-- Settles O10: the reset interval adds no pulse, and each symbol's pulse has its bit's width (`receive_frameWave`). -/
theorem receiverReadsTheColorBack : Obligations.ReceiverReadsTheColorBack := fun _ c hv =>
  receive_frameWave hv c

end Sys2Proof
